-- ==== Sys2Proof/Word.lean ====
section
/-! DEFINITION. The two widths of the MC6809 (spec 00_scope.md R4): bytes, and 16-bit words that are also
the addresses. Everything that splits, joins or extends them stands in Sys2Proof/Decode.lean and Sys2Proof/Machine. -/

namespace Sys2Proof

/-- A byte: the width of the data bus, of A, B, DP and CC, and of one memory cell (R4, R40). -/
abbrev Byte := BitVec 8

/-- A 16-bit value: the width of the address bus and of X, Y, U, S and PC (R4). -/
abbrev Word := BitVec 16

end Sys2Proof
end

