-- ==== Sys2Proof/Syntax.lean ====
section
/-! DEFINITION. The instructions of the MC6809 as syntax: every mnemonic of spec/opcode_table.json is a constructor
of Instr, and the row of the table (the mnemonic's operand form) is the constructor's argument. Rules: 30_encoding.md
R92 to R101, R104 to R106, R124. -/

namespace Sys2Proof

/-- The pointer registers of indexed addressing, the `RR` field 00, 01, 10, 11 of the postbyte (R97). -/
inductive Ptr
  | x | y | u | s
  deriving DecidableEq, Repr

/-- The indexed forms of the postbyte (R97, R137 to R151). `ind` is the indirect bit, where the form has one. The
two program-counter-relative forms keep their don't-care `rr` bits, so that each postbyte has one term (log entry 17). -/
inductive Indexed
  /-- `n,R` with a 5-bit offset (R137). -/
  | off5 (r : Ptr) (n : BitVec 5)
  /-- `,R+` (R138). -/
  | inc1 (r : Ptr)
  /-- `,R++` (R139). -/
  | inc2 (r : Ptr) (ind : Bool)
  /-- `,-R` (R140). -/
  | dec1 (r : Ptr)
  /-- `,--R` (R141). -/
  | dec2 (r : Ptr) (ind : Bool)
  /-- `,R` (R142). -/
  | noOff (r : Ptr) (ind : Bool)
  /-- `B,R` (R143). -/
  | accB (r : Ptr) (ind : Bool)
  /-- `A,R` (R144). -/
  | accA (r : Ptr) (ind : Bool)
  /-- `D,R` (R145). -/
  | accD (r : Ptr) (ind : Bool)
  /-- `n,R` with an 8-bit offset (R148). -/
  | off8 (r : Ptr) (n : Byte) (ind : Bool)
  /-- `n,R` with a 16-bit offset (R149). -/
  | off16 (r : Ptr) (n : Word) (ind : Bool)
  /-- `n,PCR` with an 8-bit offset (R146). -/
  | pcr8 (rr : BitVec 2) (n : Byte) (ind : Bool)
  /-- `n,PCR` with a 16-bit offset (R147). -/
  | pcr16 (rr : BitVec 2) (n : Word) (ind : Bool)
  /-- `[n]`, extended indirect, postbyte $9F (R151). -/
  | extInd (addr : Word)
  deriving DecidableEq, Repr

/-- An 8-bit source operand: formats IMM8, DIR, IDX, EXT (R93, R95 to R97). -/
inductive Src8
  | imm (v : Byte)
  | dir (lo : Byte)
  | idx (i : Indexed)
  | ext (addr : Word)
  deriving DecidableEq, Repr

/-- A 16-bit source operand: formats IMM16, DIR, IDX, EXT (R94 to R97). -/
inductive Src16
  | imm (v : Word)
  | dir (lo : Byte)
  | idx (i : Indexed)
  | ext (addr : Word)
  deriving DecidableEq, Repr

/-- An operand in memory, for stores, read-modify-write, JMP and JSR: formats DIR, IDX, EXT (R95 to R97). -/
inductive Mem
  | dir (lo : Byte)
  | idx (i : Indexed)
  | ext (addr : Word)
  deriving DecidableEq, Repr

/-- The ten registers that TFR and EXG can name (R100, R296). -/
inductive Reg
  | d | x | y | u | s | pc | a | b | cc | dp
  deriving DecidableEq, Repr

/-- The instructions. The aliases of R124 (LSL, LSLA, LSLB, BHS, BLO, LBHS, LBLO) are constructors of their own
because the opcode table gives them rows; the decoder answers the instruction they name (log entry 15). -/
inductive Instr
  -- 8-bit accumulator and memory (41_accumulator_memory_8bit.md)
  /-- ADCA: add memory and carry into A (R174). -/
  | adca (operand : Src8)
  /-- ADCB: add memory and carry into B (R175). -/
  | adcb (operand : Src8)
  /-- ADDA: add memory into A (R176). -/
  | adda (operand : Src8)
  /-- ADDB: add memory into B (R177). -/
  | addb (operand : Src8)
  /-- ANDA: logical AND memory into A (R178). -/
  | anda (operand : Src8)
  /-- ANDB: logical AND memory into B (R179). -/
  | andb (operand : Src8)
  /-- BITA: bit test A with memory (R180). -/
  | bita (operand : Src8)
  /-- BITB: bit test B with memory (R181). -/
  | bitb (operand : Src8)
  /-- CMPA: compare memory from A (R182). -/
  | cmpa (operand : Src8)
  /-- CMPB: compare memory from B (R183). -/
  | cmpb (operand : Src8)
  /-- EORA: exclusive OR memory into A (R184). -/
  | eora (operand : Src8)
  /-- EORB: exclusive OR memory into B (R185). -/
  | eorb (operand : Src8)
  /-- LDA: load A from memory (R186). -/
  | lda (operand : Src8)
  /-- LDB: load B from memory (R187). -/
  | ldb (operand : Src8)
  /-- ORA: inclusive OR memory into A (R188). -/
  | ora (operand : Src8)
  /-- ORB: inclusive OR memory into B (R189). -/
  | orb (operand : Src8)
  /-- SBCA: subtract memory and borrow from A (R190). -/
  | sbca (operand : Src8)
  /-- SBCB: subtract memory and borrow from B (R191). -/
  | sbcb (operand : Src8)
  /-- STA: store A into memory (R192). -/
  | sta (operand : Mem)
  /-- STB: store B into memory (R193). -/
  | stb (operand : Mem)
  /-- SUBA: subtract memory from A (R194). -/
  | suba (operand : Src8)
  /-- SUBB: subtract memory from B (R195). -/
  | subb (operand : Src8)
  -- shifts and read-modify-write (42_shift_rmw_8bit.md)
  /-- ASLA: arithmetic shift left A (R201). -/
  | asla
  /-- ASLB: arithmetic shift left B (R202). -/
  | aslb
  /-- ASL: arithmetic shift left memory (R203). -/
  | asl (operand : Mem)
  /-- ASRA: arithmetic shift right A (R204). -/
  | asra
  /-- ASRB: arithmetic shift right B (R205). -/
  | asrb
  /-- ASR: arithmetic shift right memory (R206). -/
  | asr (operand : Mem)
  /-- CLRA: clear A (R207). -/
  | clra
  /-- CLRB: clear B (R208). -/
  | clrb
  /-- CLR: clear memory (R209). -/
  | clr (operand : Mem)
  /-- COMA: complement A (R210). -/
  | coma
  /-- COMB: complement B (R211). -/
  | comb
  /-- COM: complement memory (R212). -/
  | com (operand : Mem)
  /-- DECA: decrement A (R213). -/
  | deca
  /-- DECB: decrement B (R214). -/
  | decb
  /-- DEC: decrement memory (R215). -/
  | dec (operand : Mem)
  /-- INCA: increment A (R216). -/
  | inca
  /-- INCB: increment B (R217). -/
  | incb
  /-- INC: increment memory (R218). -/
  | inc (operand : Mem)
  /-- LSLA: logical shift left (second name of ASL) A (R219). -/
  | lsla
  /-- LSLB: logical shift left (second name of ASL) B (R220). -/
  | lslb
  /-- LSL: logical shift left (second name of ASL) memory (R221). -/
  | lsl (operand : Mem)
  /-- LSRA: logical shift right A (R222). -/
  | lsra
  /-- LSRB: logical shift right B (R223). -/
  | lsrb
  /-- LSR: logical shift right memory (R224). -/
  | lsr (operand : Mem)
  /-- NEGA: negate A (R225). -/
  | nega
  /-- NEGB: negate B (R226). -/
  | negb
  /-- NEG: negate memory (R227). -/
  | neg (operand : Mem)
  /-- ROLA: rotate left through carry A (R228). -/
  | rola
  /-- ROLB: rotate left through carry B (R229). -/
  | rolb
  /-- ROL: rotate left through carry memory (R230). -/
  | rol (operand : Mem)
  /-- RORA: rotate right through carry A (R231). -/
  | rora
  /-- RORB: rotate right through carry B (R232). -/
  | rorb
  /-- ROR: rotate right through carry memory (R233). -/
  | ror (operand : Mem)
  /-- TSTA: test A (R234). -/
  | tsta
  /-- TSTB: test B (R235). -/
  | tstb
  /-- TST: test memory (R236). -/
  | tst (operand : Mem)
  /-- DAA: decimal addition adjust (R237). -/
  | daa
  /-- MUL: multiply accumulators (R238). -/
  | mul
  -- 16-bit and pointer (43_16bit_pointer.md)
  /-- ADDD: add memory into D (R253). -/
  | addd (operand : Src16)
  /-- SUBD: subtract memory from D (R254). -/
  | subd (operand : Src16)
  /-- CMPD: compare memory from D (R255). -/
  | cmpd (operand : Src16)
  /-- CMPX: compare memory from X (R256). -/
  | cmpx (operand : Src16)
  /-- CMPY: compare memory from Y (R257). -/
  | cmpy (operand : Src16)
  /-- CMPU: compare memory from U (R258). -/
  | cmpu (operand : Src16)
  /-- CMPS: compare memory from S (R259). -/
  | cmps (operand : Src16)
  /-- LDD: load D from memory (R260). -/
  | ldd (operand : Src16)
  /-- LDX: load X from memory (R261). -/
  | ldx (operand : Src16)
  /-- LDY: load Y from memory (R262). -/
  | ldy (operand : Src16)
  /-- LDU: load U from memory (R263). -/
  | ldu (operand : Src16)
  /-- LDS: load S from memory (R264). -/
  | lds (operand : Src16)
  /-- STD: store D into memory (R265). -/
  | std (operand : Mem)
  /-- STX: store X into memory (R266). -/
  | stx (operand : Mem)
  /-- STY: store Y into memory (R267). -/
  | sty (operand : Mem)
  /-- STU: store U into memory (R268). -/
  | stu (operand : Mem)
  /-- STS: store S into memory (R269). -/
  | sts (operand : Mem)
  /-- LEAX: load effective address into X (R270). -/
  | leax (operand : Indexed)
  /-- LEAY: load effective address into Y (R271). -/
  | leay (operand : Indexed)
  /-- LEAS: load effective address into S (R272). -/
  | leas (operand : Indexed)
  /-- LEAU: load effective address into U (R273). -/
  | leau (operand : Indexed)
  /-- ABX: add B into X (R274). -/
  | abx
  /-- SEX: sign extend B into A (R275). -/
  | sex
  -- stack and transfer (44_stack_transfer.md)
  /-- PSHS: push registers on the hardware stack (R292). -/
  | pshs (regs : Byte)
  /-- PSHU: push registers on the user stack (R293). -/
  | pshu (regs : Byte)
  /-- PULS: pull registers from the hardware stack (R294). -/
  | puls (regs : Byte)
  /-- PULU: pull registers from the user stack (R295). -/
  | pulu (regs : Byte)
  /-- TFR: transfer register to register (R297). -/
  | tfr (source dest : Reg)
  /-- EXG: exchange registers (R298). -/
  | exg (source dest : Reg)
  -- branches (45_branch.md)
  /-- BRA: branch always (R313). -/
  | bra (off : Byte)
  /-- BRN: branch never (R314). -/
  | brn (off : Byte)
  /-- BHI: branch if higher (R315). -/
  | bhi (off : Byte)
  /-- BLS: branch on lower or same (R316). -/
  | bls (off : Byte)
  /-- BCC: branch on carry clear (R317). -/
  | bcc (off : Byte)
  /-- BHS: branch if higher or same (R318). -/
  | bhs (off : Byte)
  /-- BCS: branch on carry set (R319). -/
  | bcs (off : Byte)
  /-- BLO: branch on lower (R320). -/
  | blo (off : Byte)
  /-- BNE: branch not equal (R321). -/
  | bne (off : Byte)
  /-- BEQ: branch on equal (R322). -/
  | beq (off : Byte)
  /-- BVC: branch on overflow clear (R323). -/
  | bvc (off : Byte)
  /-- BVS: branch on overflow set (R324). -/
  | bvs (off : Byte)
  /-- BPL: branch on plus (the page prints "Branch of Plus") (R325). -/
  | bpl (off : Byte)
  /-- BMI: branch on minus (R326). -/
  | bmi (off : Byte)
  /-- BGE: branch on greater than or equal to zero (R327). -/
  | bge (off : Byte)
  /-- BLT: branch on less than zero (R328). -/
  | blt (off : Byte)
  /-- BGT: branch on greater (R329). -/
  | bgt (off : Byte)
  /-- BLE: branch on less than or equal to zero (R330). -/
  | ble (off : Byte)
  /-- LBRA: long form of BRA (R331). -/
  | lbra (off : Word)
  /-- LBRN: long form of BRN (R332). -/
  | lbrn (off : Word)
  /-- LBHI: long form of BHI (R333). -/
  | lbhi (off : Word)
  /-- LBLS: long form of BLS (R334). -/
  | lbls (off : Word)
  /-- LBCC: long form of BCC (R335). -/
  | lbcc (off : Word)
  /-- LBHS: long form of BHS (R336). -/
  | lbhs (off : Word)
  /-- LBCS: long form of BCS (R337). -/
  | lbcs (off : Word)
  /-- LBLO: long form of BLO (R338). -/
  | lblo (off : Word)
  /-- LBNE: long form of BNE (R339). -/
  | lbne (off : Word)
  /-- LBEQ: long form of BEQ (R340). -/
  | lbeq (off : Word)
  /-- LBVC: long form of BVC (R341). -/
  | lbvc (off : Word)
  /-- LBVS: long form of BVS (R342). -/
  | lbvs (off : Word)
  /-- LBPL: long form of BPL (R343). -/
  | lbpl (off : Word)
  /-- LBMI: long form of BMI (R344). -/
  | lbmi (off : Word)
  /-- LBGE: long form of BGE (R345). -/
  | lbge (off : Word)
  /-- LBLT: long form of BLT (R346). -/
  | lblt (off : Word)
  /-- LBGT: long form of BGT (R347). -/
  | lbgt (off : Word)
  /-- LBLE: long form of BLE (R348). -/
  | lble (off : Word)
  /-- BSR: branch to subroutine (R349). -/
  | bsr (off : Byte)
  /-- LBSR: long branch to subroutine (R350). -/
  | lbsr (off : Word)
  -- condition code, jump, subroutine, interrupt and wait (46_system_misc.md)
  /-- ANDCC: logical AND immediate into the condition code register (R360). -/
  | andcc (imm : Byte)
  /-- ORCC: inclusive OR immediate into the condition code register (R361). -/
  | orcc (imm : Byte)
  /-- CWAI: clear condition-code bits and wait for interrupt (R362). -/
  | cwai (imm : Byte)
  /-- NOP: no operation (R363). -/
  | nop
  /-- JMP: jump to effective address (R364). -/
  | jmp (operand : Mem)
  /-- JSR: jump to subroutine at effective address (R365). -/
  | jsr (operand : Mem)
  /-- RTI: return from interrupt (R366). -/
  | rti
  /-- RTS: return from subroutine (R367). -/
  | rts
  /-- SWI: software interrupt (R368). -/
  | swi
  /-- SWI2: software interrupt 2 (R369). -/
  | swi2
  /-- SWI3: software interrupt 3 (R370). -/
  | swi3
  /-- SYNC: synchronize to external event (R371). -/
  | sync
  deriving DecidableEq, Repr

end Sys2Proof
end

