-- ==== Sys2Proof/WellFormed.lean ====
section
/-! DEFINITION. Which terms of Instr stand for an instruction the spec defines. The one check is that of TFR and EXG:
both registers have the same size (30_encoding.md R110, 44_stack_transfer.md R296). Every other term of Instr is
defined: the undefined postbytes and register codes have no term at all. -/

namespace Sys2Proof

/-- Is the register 16 bits wide (bit 3 of its code is 0)? (R100) -/
def Reg.isWide : Reg → Bool
  | .d | .x | .y | .u | .s | .pc => true
  | .a | .b | .cc | .dp => false

/-- May TFR and EXG pair these registers: "registers of like size" (R100, R110)? -/
def Reg.sameSize (p q : Reg) : Bool := p.isWide == q.isWide

/-- The instruction is one the spec defines (R110 for TFR and EXG, nothing to check for the others). -/
def Instr.wellFormed : Instr → Bool
  | .tfr p q => p.sameSize q
  | .exg p q => p.sameSize q
  | _ => true

/-- The instruction an alias mnemonic names; every other instruction is itself (30_encoding.md R124; R219 to R221,
R318, R320, R336, R338). -/
def Instr.canonical : Instr → Instr
  | .lsla => .asla
  | .lslb => .aslb
  | .lsl m => .asl m
  | .bhs o => .bcc o
  | .blo o => .bcs o
  | .lbhs o => .lbcc o
  | .lblo o => .lbcs o
  | i => i

end Sys2Proof
end

