-- ==== Sys2Proof/Decode.lean ====
section
/-! DEFINITION. From bytes to instructions and back (30_encoding.md R90 to R112): the opcode maps of the three pages,
the postbytes, a decoder total on any bytes that rejects by name, and after it the encoder. The decoder asks for more
bytes one at a time, so that the machine fetches exactly the bytes of R111. -/

namespace Sys2Proof

/-! ## Byte order and bit fields -/

/-- The 16-bit value `h:l`, the high byte first (R5, 20_memory.md R61). -/
def joinBytes (h l : Byte) : Word := h ++ l

/-- Bits 15 to 8 of a word (R5). -/
def highByte (w : Word) : Byte := w.extractLsb' 8 8

/-- Bits 7 to 0 of a word (R5). -/
def lowByte (w : Word) : Byte := w.extractLsb' 0 8

/-- The two bytes of a word as they lie in memory, the high byte at the lower address (20_memory.md R61, R62). -/
def wordBytes (w : Word) : List Byte := [highByte w, lowByte w]

/-! ## Register fields -/

/-- The pointer register of an `RR` field (R97). -/
def Ptr.ofBits (rr : BitVec 2) : Ptr :=
  if rr = 0 then .x else if rr = 1 then .y else if rr = 2 then .u else .s

/-- The `RR` field of a pointer register (R97). -/
def Ptr.toBits : Ptr → BitVec 2
  | .x => 0
  | .y => 1
  | .u => 2
  | .s => 3

/-- The register of a TFR or EXG code; the six codes of R100 marked undefined name none (R100, R296). -/
def Reg.ofCode (c : BitVec 4) : Option Reg :=
  match c.toNat with
  | 0 => some .d
  | 1 => some .x
  | 2 => some .y
  | 3 => some .u
  | 4 => some .s
  | 5 => some .pc
  | 8 => some .a
  | 9 => some .b
  | 10 => some .cc
  | 11 => some .dp
  | _ => none

/-- The code of a register (R100, R296). -/
def Reg.code : Reg → BitVec 4
  | .d => 0
  | .x => 1
  | .y => 2
  | .u => 3
  | .s => 4
  | .pc => 5
  | .a => 8
  | .b => 9
  | .cc => 10
  | .dp => 11

/-- The postbyte of a register pair: the first register in bits 7 to 4 (R100). -/
def pairByte (p q : Reg) : Byte := p.code ++ q.code

/-! ## Outcome of decoding -/

/-- Why bytes are no instruction, by the names of 60_exceptions.md R402. -/
inductive DecodeError
  /-- `IllegalOpcode(bytes)`: the opcode, or the pair of the first byte and the opcode, is in no map (R107, R108). -/
  | illegalOpcode (bytes : List Byte)
  /-- `IllegalPostbyte(byte)`: an indexed postbyte that R97 does not define (R109). -/
  | illegalPostbyte (postbyte : Byte)
  /-- `IllegalRegisterCode(byte)`: a TFR or EXG postbyte with an undefined code or registers of two sizes (R110). -/
  | illegalRegisterCode (postbyte : Byte)
  deriving DecidableEq, Repr

/-- What the decoder answers on some bytes. -/
inductive Parse
  /-- The bytes are the beginning of an instruction: fetch one more. -/
  | more
  /-- The bytes begin with this instruction; the others follow it. -/
  | done (i : Instr) (rest : List Byte)
  /-- No instruction begins so. -/
  | illegal (e : DecodeError)
  deriving DecidableEq, Repr

/-! ## Operand bytes -/

/-- One operand byte (R93, R95, R98, R101). -/
def takeByte (k : Byte → Instr) : List Byte → Parse
  | [] => .more
  | v :: rest => .done (k v) rest

/-- Two operand bytes, high byte first (R94, R96, R99). -/
def takeWord (k : Word → Instr) : List Byte → Parse
  | [] => .more
  | [_] => .more
  | h :: l :: rest => .done (k (joinBytes h l)) rest

/-- What an indexed postbyte calls for: nothing more, one byte, or two bytes (R97). -/
inductive IndexedShape
  | none (i : Indexed)
  | byte (k : Byte → Indexed)
  | word (k : Word → Indexed)

/-- The form of an indexed postbyte, if R97 defines it; the 39 undefined values of R109 have none. -/
def indexedShape (pb : Byte) : Option IndexedShape :=
  let rr := pb.extractLsb' 5 2
  let r := Ptr.ofBits rr
  let ind := pb.getLsbD 4
  if pb.getLsbD 7 = false then some (.none (.off5 r (pb.extractLsb' 0 5)))
  else match (pb.extractLsb' 0 4).toNat with
    | 0 => if ind then none else some (.none (.inc1 r))
    | 1 => some (.none (.inc2 r ind))
    | 2 => if ind then none else some (.none (.dec1 r))
    | 3 => some (.none (.dec2 r ind))
    | 4 => some (.none (.noOff r ind))
    | 5 => some (.none (.accB r ind))
    | 6 => some (.none (.accA r ind))
    | 8 => some (.byte (fun n => .off8 r n ind))
    | 9 => some (.word (fun n => .off16 r n ind))
    | 11 => some (.none (.accD r ind))
    | 12 => some (.byte (fun n => .pcr8 rr n ind))
    | 13 => some (.word (fun n => .pcr16 rr n ind))
    | 15 => if pb = 0x9F then some (.word .extInd) else none
    | _ => none

/-- An indexed postbyte and the bytes it calls for; after an undefined postbyte nothing more is fetched (R97, R109). -/
def takeIndexed (k : Indexed → Instr) : List Byte → Parse
  | [] => .more
  | pb :: rest =>
    match indexedShape pb with
    | none => .illegal (.illegalPostbyte pb)
    | some (.none i) => .done (k i) rest
    | some (.byte f) => takeByte (fun n => k (f n)) rest
    | some (.word f) => takeWord (fun n => k (f n)) rest

/-- A TFR or EXG postbyte (R100); undefined codes and mixed sizes are refused (R110). -/
def takePair (k : Reg → Reg → Instr) : List Byte → Parse
  | [] => .more
  | pb :: rest =>
    match Reg.ofCode (pb.extractLsb' 4 4), Reg.ofCode (pb.extractLsb' 0 4) with
    | some p, some q => if p.sameSize q then .done (k p q) rest else .illegal (.illegalRegisterCode pb)
    | _, _ => .illegal (.illegalRegisterCode pb)

/-! ## Opcode maps -/

/-- The formats of R92 to R101, each with the instruction its fields make. -/
inductive Shape
  | inh (i : Instr)
  | imm8 (k : Byte → Instr)
  | imm16 (k : Word → Instr)
  | dir (k : Byte → Instr)
  | ext (k : Word → Instr)
  | idx (k : Indexed → Instr)
  | rel8 (k : Byte → Instr)
  | rel16 (k : Word → Instr)
  | regpair (k : Reg → Reg → Instr)
  | stk (k : Byte → Instr)

/-- The bytes after the opcode, by format (R92 to R101, R111). -/
def Shape.parse : Shape → List Byte → Parse
  | .inh i => fun rest => .done i rest
  | .imm8 k => takeByte k
  | .imm16 k => takeWord k
  | .dir k => takeByte k
  | .ext k => takeWord k
  | .idx k => takeIndexed k
  | .rel8 k => takeByte k
  | .rel16 k => takeWord k
  | .regpair k => takePair k
  | .stk k => takeByte k

/-- Page 1, opcodes $00 to $0F (R104). -/
def page1Row0 : List (Nat × Shape) :=
  [ (0x00, .dir (fun v => .neg (.dir v))),
    (0x03, .dir (fun v => .com (.dir v))),
    (0x04, .dir (fun v => .lsr (.dir v))),
    (0x06, .dir (fun v => .ror (.dir v))),
    (0x07, .dir (fun v => .asr (.dir v))),
    (0x08, .dir (fun v => .asl (.dir v))),
    (0x09, .dir (fun v => .rol (.dir v))),
    (0x0A, .dir (fun v => .dec (.dir v))),
    (0x0C, .dir (fun v => .inc (.dir v))),
    (0x0D, .dir (fun v => .tst (.dir v))),
    (0x0E, .dir (fun v => .jmp (.dir v))),
    (0x0F, .dir (fun v => .clr (.dir v))) ]

/-- Page 1, opcodes $10 to $1F (R104). -/
def page1Row1 : List (Nat × Shape) :=
  [ (0x12, .inh .nop),
    (0x13, .inh .sync),
    (0x16, .rel16 .lbra),
    (0x17, .rel16 .lbsr),
    (0x19, .inh .daa),
    (0x1A, .imm8 .orcc),
    (0x1C, .imm8 .andcc),
    (0x1D, .inh .sex),
    (0x1E, .regpair .exg),
    (0x1F, .regpair .tfr) ]

/-- Page 1, opcodes $20 to $2F (R104). -/
def page1Row2 : List (Nat × Shape) :=
  [ (0x20, .rel8 .bra),
    (0x21, .rel8 .brn),
    (0x22, .rel8 .bhi),
    (0x23, .rel8 .bls),
    (0x24, .rel8 .bcc),
    (0x25, .rel8 .bcs),
    (0x26, .rel8 .bne),
    (0x27, .rel8 .beq),
    (0x28, .rel8 .bvc),
    (0x29, .rel8 .bvs),
    (0x2A, .rel8 .bpl),
    (0x2B, .rel8 .bmi),
    (0x2C, .rel8 .bge),
    (0x2D, .rel8 .blt),
    (0x2E, .rel8 .bgt),
    (0x2F, .rel8 .ble) ]

/-- Page 1, opcodes $30 to $3F (R104). -/
def page1Row3 : List (Nat × Shape) :=
  [ (0x30, .idx .leax),
    (0x31, .idx .leay),
    (0x32, .idx .leas),
    (0x33, .idx .leau),
    (0x34, .stk .pshs),
    (0x35, .stk .puls),
    (0x36, .stk .pshu),
    (0x37, .stk .pulu),
    (0x39, .inh .rts),
    (0x3A, .inh .abx),
    (0x3B, .inh .rti),
    (0x3C, .imm8 .cwai),
    (0x3D, .inh .mul),
    (0x3F, .inh .swi) ]

/-- Page 1, opcodes $40 to $4F (R104). -/
def page1Row4 : List (Nat × Shape) :=
  [ (0x40, .inh .nega),
    (0x43, .inh .coma),
    (0x44, .inh .lsra),
    (0x46, .inh .rora),
    (0x47, .inh .asra),
    (0x48, .inh .asla),
    (0x49, .inh .rola),
    (0x4A, .inh .deca),
    (0x4C, .inh .inca),
    (0x4D, .inh .tsta),
    (0x4F, .inh .clra) ]

/-- Page 1, opcodes $50 to $5F (R104). -/
def page1Row5 : List (Nat × Shape) :=
  [ (0x50, .inh .negb),
    (0x53, .inh .comb),
    (0x54, .inh .lsrb),
    (0x56, .inh .rorb),
    (0x57, .inh .asrb),
    (0x58, .inh .aslb),
    (0x59, .inh .rolb),
    (0x5A, .inh .decb),
    (0x5C, .inh .incb),
    (0x5D, .inh .tstb),
    (0x5F, .inh .clrb) ]

/-- Page 1, opcodes $60 to $6F (R104). -/
def page1Row6 : List (Nat × Shape) :=
  [ (0x60, .idx (fun v => .neg (.idx v))),
    (0x63, .idx (fun v => .com (.idx v))),
    (0x64, .idx (fun v => .lsr (.idx v))),
    (0x66, .idx (fun v => .ror (.idx v))),
    (0x67, .idx (fun v => .asr (.idx v))),
    (0x68, .idx (fun v => .asl (.idx v))),
    (0x69, .idx (fun v => .rol (.idx v))),
    (0x6A, .idx (fun v => .dec (.idx v))),
    (0x6C, .idx (fun v => .inc (.idx v))),
    (0x6D, .idx (fun v => .tst (.idx v))),
    (0x6E, .idx (fun v => .jmp (.idx v))),
    (0x6F, .idx (fun v => .clr (.idx v))) ]

/-- Page 1, opcodes $70 to $7F (R104). -/
def page1Row7 : List (Nat × Shape) :=
  [ (0x70, .ext (fun v => .neg (.ext v))),
    (0x73, .ext (fun v => .com (.ext v))),
    (0x74, .ext (fun v => .lsr (.ext v))),
    (0x76, .ext (fun v => .ror (.ext v))),
    (0x77, .ext (fun v => .asr (.ext v))),
    (0x78, .ext (fun v => .asl (.ext v))),
    (0x79, .ext (fun v => .rol (.ext v))),
    (0x7A, .ext (fun v => .dec (.ext v))),
    (0x7C, .ext (fun v => .inc (.ext v))),
    (0x7D, .ext (fun v => .tst (.ext v))),
    (0x7E, .ext (fun v => .jmp (.ext v))),
    (0x7F, .ext (fun v => .clr (.ext v))) ]

/-- Page 1, opcodes $80 to $8F (R104). -/
def page1Row8 : List (Nat × Shape) :=
  [ (0x80, .imm8 (fun v => .suba (.imm v))),
    (0x81, .imm8 (fun v => .cmpa (.imm v))),
    (0x82, .imm8 (fun v => .sbca (.imm v))),
    (0x83, .imm16 (fun v => .subd (.imm v))),
    (0x84, .imm8 (fun v => .anda (.imm v))),
    (0x85, .imm8 (fun v => .bita (.imm v))),
    (0x86, .imm8 (fun v => .lda (.imm v))),
    (0x88, .imm8 (fun v => .eora (.imm v))),
    (0x89, .imm8 (fun v => .adca (.imm v))),
    (0x8A, .imm8 (fun v => .ora (.imm v))),
    (0x8B, .imm8 (fun v => .adda (.imm v))),
    (0x8C, .imm16 (fun v => .cmpx (.imm v))),
    (0x8D, .rel8 .bsr),
    (0x8E, .imm16 (fun v => .ldx (.imm v))) ]

/-- Page 1, opcodes $90 to $9F (R104). -/
def page1Row9 : List (Nat × Shape) :=
  [ (0x90, .dir (fun v => .suba (.dir v))),
    (0x91, .dir (fun v => .cmpa (.dir v))),
    (0x92, .dir (fun v => .sbca (.dir v))),
    (0x93, .dir (fun v => .subd (.dir v))),
    (0x94, .dir (fun v => .anda (.dir v))),
    (0x95, .dir (fun v => .bita (.dir v))),
    (0x96, .dir (fun v => .lda (.dir v))),
    (0x97, .dir (fun v => .sta (.dir v))),
    (0x98, .dir (fun v => .eora (.dir v))),
    (0x99, .dir (fun v => .adca (.dir v))),
    (0x9A, .dir (fun v => .ora (.dir v))),
    (0x9B, .dir (fun v => .adda (.dir v))),
    (0x9C, .dir (fun v => .cmpx (.dir v))),
    (0x9D, .dir (fun v => .jsr (.dir v))),
    (0x9E, .dir (fun v => .ldx (.dir v))),
    (0x9F, .dir (fun v => .stx (.dir v))) ]

/-- Page 1, opcodes $A0 to $AF (R104). -/
def page1RowA : List (Nat × Shape) :=
  [ (0xA0, .idx (fun v => .suba (.idx v))),
    (0xA1, .idx (fun v => .cmpa (.idx v))),
    (0xA2, .idx (fun v => .sbca (.idx v))),
    (0xA3, .idx (fun v => .subd (.idx v))),
    (0xA4, .idx (fun v => .anda (.idx v))),
    (0xA5, .idx (fun v => .bita (.idx v))),
    (0xA6, .idx (fun v => .lda (.idx v))),
    (0xA7, .idx (fun v => .sta (.idx v))),
    (0xA8, .idx (fun v => .eora (.idx v))),
    (0xA9, .idx (fun v => .adca (.idx v))),
    (0xAA, .idx (fun v => .ora (.idx v))),
    (0xAB, .idx (fun v => .adda (.idx v))),
    (0xAC, .idx (fun v => .cmpx (.idx v))),
    (0xAD, .idx (fun v => .jsr (.idx v))),
    (0xAE, .idx (fun v => .ldx (.idx v))),
    (0xAF, .idx (fun v => .stx (.idx v))) ]

/-- Page 1, opcodes $B0 to $BF (R104). -/
def page1RowB : List (Nat × Shape) :=
  [ (0xB0, .ext (fun v => .suba (.ext v))),
    (0xB1, .ext (fun v => .cmpa (.ext v))),
    (0xB2, .ext (fun v => .sbca (.ext v))),
    (0xB3, .ext (fun v => .subd (.ext v))),
    (0xB4, .ext (fun v => .anda (.ext v))),
    (0xB5, .ext (fun v => .bita (.ext v))),
    (0xB6, .ext (fun v => .lda (.ext v))),
    (0xB7, .ext (fun v => .sta (.ext v))),
    (0xB8, .ext (fun v => .eora (.ext v))),
    (0xB9, .ext (fun v => .adca (.ext v))),
    (0xBA, .ext (fun v => .ora (.ext v))),
    (0xBB, .ext (fun v => .adda (.ext v))),
    (0xBC, .ext (fun v => .cmpx (.ext v))),
    (0xBD, .ext (fun v => .jsr (.ext v))),
    (0xBE, .ext (fun v => .ldx (.ext v))),
    (0xBF, .ext (fun v => .stx (.ext v))) ]

/-- Page 1, opcodes $C0 to $CF (R104). -/
def page1RowC : List (Nat × Shape) :=
  [ (0xC0, .imm8 (fun v => .subb (.imm v))),
    (0xC1, .imm8 (fun v => .cmpb (.imm v))),
    (0xC2, .imm8 (fun v => .sbcb (.imm v))),
    (0xC3, .imm16 (fun v => .addd (.imm v))),
    (0xC4, .imm8 (fun v => .andb (.imm v))),
    (0xC5, .imm8 (fun v => .bitb (.imm v))),
    (0xC6, .imm8 (fun v => .ldb (.imm v))),
    (0xC8, .imm8 (fun v => .eorb (.imm v))),
    (0xC9, .imm8 (fun v => .adcb (.imm v))),
    (0xCA, .imm8 (fun v => .orb (.imm v))),
    (0xCB, .imm8 (fun v => .addb (.imm v))),
    (0xCC, .imm16 (fun v => .ldd (.imm v))),
    (0xCE, .imm16 (fun v => .ldu (.imm v))) ]

/-- Page 1, opcodes $D0 to $DF (R104). -/
def page1RowD : List (Nat × Shape) :=
  [ (0xD0, .dir (fun v => .subb (.dir v))),
    (0xD1, .dir (fun v => .cmpb (.dir v))),
    (0xD2, .dir (fun v => .sbcb (.dir v))),
    (0xD3, .dir (fun v => .addd (.dir v))),
    (0xD4, .dir (fun v => .andb (.dir v))),
    (0xD5, .dir (fun v => .bitb (.dir v))),
    (0xD6, .dir (fun v => .ldb (.dir v))),
    (0xD7, .dir (fun v => .stb (.dir v))),
    (0xD8, .dir (fun v => .eorb (.dir v))),
    (0xD9, .dir (fun v => .adcb (.dir v))),
    (0xDA, .dir (fun v => .orb (.dir v))),
    (0xDB, .dir (fun v => .addb (.dir v))),
    (0xDC, .dir (fun v => .ldd (.dir v))),
    (0xDD, .dir (fun v => .std (.dir v))),
    (0xDE, .dir (fun v => .ldu (.dir v))),
    (0xDF, .dir (fun v => .stu (.dir v))) ]

/-- Page 1, opcodes $E0 to $EF (R104). -/
def page1RowE : List (Nat × Shape) :=
  [ (0xE0, .idx (fun v => .subb (.idx v))),
    (0xE1, .idx (fun v => .cmpb (.idx v))),
    (0xE2, .idx (fun v => .sbcb (.idx v))),
    (0xE3, .idx (fun v => .addd (.idx v))),
    (0xE4, .idx (fun v => .andb (.idx v))),
    (0xE5, .idx (fun v => .bitb (.idx v))),
    (0xE6, .idx (fun v => .ldb (.idx v))),
    (0xE7, .idx (fun v => .stb (.idx v))),
    (0xE8, .idx (fun v => .eorb (.idx v))),
    (0xE9, .idx (fun v => .adcb (.idx v))),
    (0xEA, .idx (fun v => .orb (.idx v))),
    (0xEB, .idx (fun v => .addb (.idx v))),
    (0xEC, .idx (fun v => .ldd (.idx v))),
    (0xED, .idx (fun v => .std (.idx v))),
    (0xEE, .idx (fun v => .ldu (.idx v))),
    (0xEF, .idx (fun v => .stu (.idx v))) ]

/-- Page 1, opcodes $F0 to $FF (R104). -/
def page1RowF : List (Nat × Shape) :=
  [ (0xF0, .ext (fun v => .subb (.ext v))),
    (0xF1, .ext (fun v => .cmpb (.ext v))),
    (0xF2, .ext (fun v => .sbcb (.ext v))),
    (0xF3, .ext (fun v => .addd (.ext v))),
    (0xF4, .ext (fun v => .andb (.ext v))),
    (0xF5, .ext (fun v => .bitb (.ext v))),
    (0xF6, .ext (fun v => .ldb (.ext v))),
    (0xF7, .ext (fun v => .stb (.ext v))),
    (0xF8, .ext (fun v => .eorb (.ext v))),
    (0xF9, .ext (fun v => .adcb (.ext v))),
    (0xFA, .ext (fun v => .orb (.ext v))),
    (0xFB, .ext (fun v => .addb (.ext v))),
    (0xFC, .ext (fun v => .ldd (.ext v))),
    (0xFD, .ext (fun v => .std (.ext v))),
    (0xFE, .ext (fun v => .ldu (.ext v))),
    (0xFF, .ext (fun v => .stu (.ext v))) ]

/-- The opcode map of page 1 (R104).
The count of its entries, 221, is the one R107 gives. -/
def page1 : List (Nat × Shape) :=
  page1Row0 ++ page1Row1 ++ page1Row2 ++ page1Row3 ++ page1Row4 ++ page1Row5 ++ page1Row6 ++ page1Row7 ++ page1Row8 ++ page1Row9 ++ page1RowA ++ page1RowB ++ page1RowC ++ page1RowD ++ page1RowE ++ page1RowF

/-- Page 2, opcodes $1020 to $102F (R105). -/
def page2Row2 : List (Nat × Shape) :=
  [ (0x21, .rel16 .lbrn),
    (0x22, .rel16 .lbhi),
    (0x23, .rel16 .lbls),
    (0x24, .rel16 .lbcc),
    (0x25, .rel16 .lbcs),
    (0x26, .rel16 .lbne),
    (0x27, .rel16 .lbeq),
    (0x28, .rel16 .lbvc),
    (0x29, .rel16 .lbvs),
    (0x2A, .rel16 .lbpl),
    (0x2B, .rel16 .lbmi),
    (0x2C, .rel16 .lbge),
    (0x2D, .rel16 .lblt),
    (0x2E, .rel16 .lbgt),
    (0x2F, .rel16 .lble) ]

/-- Page 2, opcodes $1030 to $103F (R105). -/
def page2Row3 : List (Nat × Shape) :=
  [ (0x3F, .inh .swi2) ]

/-- Page 2, opcodes $1080 to $108F (R105). -/
def page2Row8 : List (Nat × Shape) :=
  [ (0x83, .imm16 (fun v => .cmpd (.imm v))),
    (0x8C, .imm16 (fun v => .cmpy (.imm v))),
    (0x8E, .imm16 (fun v => .ldy (.imm v))) ]

/-- Page 2, opcodes $1090 to $109F (R105). -/
def page2Row9 : List (Nat × Shape) :=
  [ (0x93, .dir (fun v => .cmpd (.dir v))),
    (0x9C, .dir (fun v => .cmpy (.dir v))),
    (0x9E, .dir (fun v => .ldy (.dir v))),
    (0x9F, .dir (fun v => .sty (.dir v))) ]

/-- Page 2, opcodes $10A0 to $10AF (R105). -/
def page2RowA : List (Nat × Shape) :=
  [ (0xA3, .idx (fun v => .cmpd (.idx v))),
    (0xAC, .idx (fun v => .cmpy (.idx v))),
    (0xAE, .idx (fun v => .ldy (.idx v))),
    (0xAF, .idx (fun v => .sty (.idx v))) ]

/-- Page 2, opcodes $10B0 to $10BF (R105). -/
def page2RowB : List (Nat × Shape) :=
  [ (0xB3, .ext (fun v => .cmpd (.ext v))),
    (0xBC, .ext (fun v => .cmpy (.ext v))),
    (0xBE, .ext (fun v => .ldy (.ext v))),
    (0xBF, .ext (fun v => .sty (.ext v))) ]

/-- Page 2, opcodes $10C0 to $10CF (R105). -/
def page2RowC : List (Nat × Shape) :=
  [ (0xCE, .imm16 (fun v => .lds (.imm v))) ]

/-- Page 2, opcodes $10D0 to $10DF (R105). -/
def page2RowD : List (Nat × Shape) :=
  [ (0xDE, .dir (fun v => .lds (.dir v))),
    (0xDF, .dir (fun v => .sts (.dir v))) ]

/-- Page 2, opcodes $10E0 to $10EF (R105). -/
def page2RowE : List (Nat × Shape) :=
  [ (0xEE, .idx (fun v => .lds (.idx v))),
    (0xEF, .idx (fun v => .sts (.idx v))) ]

/-- Page 2, opcodes $10F0 to $10FF (R105). -/
def page2RowF : List (Nat × Shape) :=
  [ (0xFE, .ext (fun v => .lds (.ext v))),
    (0xFF, .ext (fun v => .sts (.ext v))) ]

/-- The opcode map of page 2 (R105).
The count of its entries, 38, is the one R107 gives. -/
def page2 : List (Nat × Shape) :=
  page2Row2 ++ page2Row3 ++ page2Row8 ++ page2Row9 ++ page2RowA ++ page2RowB ++ page2RowC ++ page2RowD ++ page2RowE ++ page2RowF

/-- Page 3, opcodes $1130 to $113F (R106). -/
def page3Row3 : List (Nat × Shape) :=
  [ (0x3F, .inh .swi3) ]

/-- Page 3, opcodes $1180 to $118F (R106). -/
def page3Row8 : List (Nat × Shape) :=
  [ (0x83, .imm16 (fun v => .cmpu (.imm v))),
    (0x8C, .imm16 (fun v => .cmps (.imm v))) ]

/-- Page 3, opcodes $1190 to $119F (R106). -/
def page3Row9 : List (Nat × Shape) :=
  [ (0x93, .dir (fun v => .cmpu (.dir v))),
    (0x9C, .dir (fun v => .cmps (.dir v))) ]

/-- Page 3, opcodes $11A0 to $11AF (R106). -/
def page3RowA : List (Nat × Shape) :=
  [ (0xA3, .idx (fun v => .cmpu (.idx v))),
    (0xAC, .idx (fun v => .cmps (.idx v))) ]

/-- Page 3, opcodes $11B0 to $11BF (R106). -/
def page3RowB : List (Nat × Shape) :=
  [ (0xB3, .ext (fun v => .cmpu (.ext v))),
    (0xBC, .ext (fun v => .cmps (.ext v))) ]

/-- The opcode map of page 3 (R106).
The count of its entries, 9, is the one R107 gives. -/
def page3 : List (Nat × Shape) :=
  page3Row3 ++ page3Row8 ++ page3Row9 ++ page3RowA ++ page3RowB
/-- The entry of an opcode in a map, if it has one. -/
def lookupShape (op : Nat) : List (Nat × Shape) → Option Shape
  | [] => none
  | (k, sh) :: rest => if op == k then some sh else lookupShape op rest

/-! ## The decoder -/

/-- Decode by the procedure of R111. A byte $10 or $11 selects page 2 or 3 (R91); what is in no map is an illegal
opcode, a doubled page byte among them (R107, R108). -/
def decode : List Byte → Parse
  | [] => .more
  | b0 :: rest =>
    if b0 = 0x10 ∨ b0 = 0x11 then
      match rest with
      | [] => .more
      | b1 :: rest =>
        match lookupShape b1.toNat (if b0 = 0x10 then page2 else page3) with
        | none => .illegal (.illegalOpcode [b0, b1])
        | some sh => sh.parse rest
    else
      match lookupShape b0.toNat page1 with
      | none => .illegal (.illegalOpcode [b0])
      | some sh => sh.parse rest

/-! ## The encoder -/

/-- The first seven bits and the form bits of a postbyte with bit 7 set: `1RRImmmm` (R97). -/
def postbyte (rr : BitVec 2) (ind : Bool) (mode : BitVec 4) : Byte :=
  (1#1 ++ rr ++ BitVec.ofBool ind ++ mode : BitVec (1 + 2 + 1 + 4))

/-- The postbyte and extra bytes of an indexed form (R97). -/
def encodeIndexed : Indexed → List Byte
  | .off5 r n => [(0#1 ++ r.toBits ++ n : BitVec (1 + 2 + 5))]
  | .inc1 r => [postbyte r.toBits false 0]
  | .inc2 r ind => [postbyte r.toBits ind 1]
  | .dec1 r => [postbyte r.toBits false 2]
  | .dec2 r ind => [postbyte r.toBits ind 3]
  | .noOff r ind => [postbyte r.toBits ind 4]
  | .accB r ind => [postbyte r.toBits ind 5]
  | .accA r ind => [postbyte r.toBits ind 6]
  | .accD r ind => [postbyte r.toBits ind 11]
  | .off8 r n ind => [postbyte r.toBits ind 8, n]
  | .off16 r n ind => postbyte r.toBits ind 9 :: wordBytes n
  | .pcr8 rr n ind => [postbyte rr ind 12, n]
  | .pcr16 rr n ind => postbyte rr ind 13 :: wordBytes n
  | .extInd addr => 0x9F :: wordBytes addr

/-- An 8-bit source operand after the opcode of its form (R93, R95 to R97). -/
def encodeSrc8 (imm dir idx ext : List Byte) : Src8 → List Byte
  | .imm v => imm ++ [v]
  | .dir lo => dir ++ [lo]
  | .idx i => idx ++ encodeIndexed i
  | .ext addr => ext ++ wordBytes addr

/-- A 16-bit source operand after the opcode of its form (R94 to R97). -/
def encodeSrc16 (imm dir idx ext : List Byte) : Src16 → List Byte
  | .imm v => imm ++ wordBytes v
  | .dir lo => dir ++ [lo]
  | .idx i => idx ++ encodeIndexed i
  | .ext addr => ext ++ wordBytes addr

/-- A memory operand after the opcode of its form (R95 to R97). -/
def encodeMem (dir idx ext : List Byte) : Mem → List Byte
  | .dir lo => dir ++ [lo]
  | .idx i => idx ++ encodeIndexed i
  | .ext addr => ext ++ wordBytes addr

/-- The bytes of an instruction, in increasing address order (R90 to R101; the opcodes are those of the instruction
rules in files 41 to 46). An alias has the bytes of the instruction it names (R124). -/
def encode : Instr → List Byte
  -- 8-bit accumulator and memory
  | .adca o => encodeSrc8 [0x89] [0x99] [0xA9] [0xB9] o
  | .adcb o => encodeSrc8 [0xC9] [0xD9] [0xE9] [0xF9] o
  | .adda o => encodeSrc8 [0x8B] [0x9B] [0xAB] [0xBB] o
  | .addb o => encodeSrc8 [0xCB] [0xDB] [0xEB] [0xFB] o
  | .anda o => encodeSrc8 [0x84] [0x94] [0xA4] [0xB4] o
  | .andb o => encodeSrc8 [0xC4] [0xD4] [0xE4] [0xF4] o
  | .bita o => encodeSrc8 [0x85] [0x95] [0xA5] [0xB5] o
  | .bitb o => encodeSrc8 [0xC5] [0xD5] [0xE5] [0xF5] o
  | .cmpa o => encodeSrc8 [0x81] [0x91] [0xA1] [0xB1] o
  | .cmpb o => encodeSrc8 [0xC1] [0xD1] [0xE1] [0xF1] o
  | .eora o => encodeSrc8 [0x88] [0x98] [0xA8] [0xB8] o
  | .eorb o => encodeSrc8 [0xC8] [0xD8] [0xE8] [0xF8] o
  | .lda o => encodeSrc8 [0x86] [0x96] [0xA6] [0xB6] o
  | .ldb o => encodeSrc8 [0xC6] [0xD6] [0xE6] [0xF6] o
  | .ora o => encodeSrc8 [0x8A] [0x9A] [0xAA] [0xBA] o
  | .orb o => encodeSrc8 [0xCA] [0xDA] [0xEA] [0xFA] o
  | .sbca o => encodeSrc8 [0x82] [0x92] [0xA2] [0xB2] o
  | .sbcb o => encodeSrc8 [0xC2] [0xD2] [0xE2] [0xF2] o
  | .sta m => encodeMem [0x97] [0xA7] [0xB7] m
  | .stb m => encodeMem [0xD7] [0xE7] [0xF7] m
  | .suba o => encodeSrc8 [0x80] [0x90] [0xA0] [0xB0] o
  | .subb o => encodeSrc8 [0xC0] [0xD0] [0xE0] [0xF0] o
  -- 8-bit read-modify-write
  | .asla => [0x48]
  | .aslb => [0x58]
  | .asl m => encodeMem [0x08] [0x68] [0x78] m
  | .asra => [0x47]
  | .asrb => [0x57]
  | .asr m => encodeMem [0x07] [0x67] [0x77] m
  | .clra => [0x4F]
  | .clrb => [0x5F]
  | .clr m => encodeMem [0x0F] [0x6F] [0x7F] m
  | .coma => [0x43]
  | .comb => [0x53]
  | .com m => encodeMem [0x03] [0x63] [0x73] m
  | .deca => [0x4A]
  | .decb => [0x5A]
  | .dec m => encodeMem [0x0A] [0x6A] [0x7A] m
  | .inca => [0x4C]
  | .incb => [0x5C]
  | .inc m => encodeMem [0x0C] [0x6C] [0x7C] m
  | .lsla => [0x48]
  | .lslb => [0x58]
  | .lsl m => encodeMem [0x08] [0x68] [0x78] m
  | .lsra => [0x44]
  | .lsrb => [0x54]
  | .lsr m => encodeMem [0x04] [0x64] [0x74] m
  | .nega => [0x40]
  | .negb => [0x50]
  | .neg m => encodeMem [0x00] [0x60] [0x70] m
  | .rola => [0x49]
  | .rolb => [0x59]
  | .rol m => encodeMem [0x09] [0x69] [0x79] m
  | .rora => [0x46]
  | .rorb => [0x56]
  | .ror m => encodeMem [0x06] [0x66] [0x76] m
  | .tsta => [0x4D]
  | .tstb => [0x5D]
  | .tst m => encodeMem [0x0D] [0x6D] [0x7D] m
  | .daa => [0x19]
  | .mul => [0x3D]
  -- 16-bit
  | .addd o => encodeSrc16 [0xC3] [0xD3] [0xE3] [0xF3] o
  | .subd o => encodeSrc16 [0x83] [0x93] [0xA3] [0xB3] o
  | .cmpd o => encodeSrc16 [0x10, 0x83] [0x10, 0x93] [0x10, 0xA3] [0x10, 0xB3] o
  | .cmpx o => encodeSrc16 [0x8C] [0x9C] [0xAC] [0xBC] o
  | .cmpy o => encodeSrc16 [0x10, 0x8C] [0x10, 0x9C] [0x10, 0xAC] [0x10, 0xBC] o
  | .cmpu o => encodeSrc16 [0x11, 0x83] [0x11, 0x93] [0x11, 0xA3] [0x11, 0xB3] o
  | .cmps o => encodeSrc16 [0x11, 0x8C] [0x11, 0x9C] [0x11, 0xAC] [0x11, 0xBC] o
  | .ldd o => encodeSrc16 [0xCC] [0xDC] [0xEC] [0xFC] o
  | .ldx o => encodeSrc16 [0x8E] [0x9E] [0xAE] [0xBE] o
  | .ldy o => encodeSrc16 [0x10, 0x8E] [0x10, 0x9E] [0x10, 0xAE] [0x10, 0xBE] o
  | .ldu o => encodeSrc16 [0xCE] [0xDE] [0xEE] [0xFE] o
  | .lds o => encodeSrc16 [0x10, 0xCE] [0x10, 0xDE] [0x10, 0xEE] [0x10, 0xFE] o
  | .std m => encodeMem [0xDD] [0xED] [0xFD] m
  | .stx m => encodeMem [0x9F] [0xAF] [0xBF] m
  | .sty m => encodeMem [0x10, 0x9F] [0x10, 0xAF] [0x10, 0xBF] m
  | .stu m => encodeMem [0xDF] [0xEF] [0xFF] m
  | .sts m => encodeMem [0x10, 0xDF] [0x10, 0xEF] [0x10, 0xFF] m
  | .leax i => [0x30] ++ encodeIndexed i
  | .leay i => [0x31] ++ encodeIndexed i
  | .leas i => [0x32] ++ encodeIndexed i
  | .leau i => [0x33] ++ encodeIndexed i
  | .abx => [0x3A]
  | .sex => [0x1D]
  -- stack and transfer
  | .pshs v => [0x34] ++ [v]
  | .pshu v => [0x36] ++ [v]
  | .puls v => [0x35] ++ [v]
  | .pulu v => [0x37] ++ [v]
  | .tfr p q => [0x1F] ++ [pairByte p q]
  | .exg p q => [0x1E] ++ [pairByte p q]
  -- branches
  | .bra v => [0x20] ++ [v]
  | .brn v => [0x21] ++ [v]
  | .bhi v => [0x22] ++ [v]
  | .bls v => [0x23] ++ [v]
  | .bcc v => [0x24] ++ [v]
  | .bhs v => [0x24] ++ [v]
  | .bcs v => [0x25] ++ [v]
  | .blo v => [0x25] ++ [v]
  | .bne v => [0x26] ++ [v]
  | .beq v => [0x27] ++ [v]
  | .bvc v => [0x28] ++ [v]
  | .bvs v => [0x29] ++ [v]
  | .bpl v => [0x2A] ++ [v]
  | .bmi v => [0x2B] ++ [v]
  | .bge v => [0x2C] ++ [v]
  | .blt v => [0x2D] ++ [v]
  | .bgt v => [0x2E] ++ [v]
  | .ble v => [0x2F] ++ [v]
  | .lbra v => [0x16] ++ wordBytes v
  | .lbrn v => [0x10, 0x21] ++ wordBytes v
  | .lbhi v => [0x10, 0x22] ++ wordBytes v
  | .lbls v => [0x10, 0x23] ++ wordBytes v
  | .lbcc v => [0x10, 0x24] ++ wordBytes v
  | .lbhs v => [0x10, 0x24] ++ wordBytes v
  | .lbcs v => [0x10, 0x25] ++ wordBytes v
  | .lblo v => [0x10, 0x25] ++ wordBytes v
  | .lbne v => [0x10, 0x26] ++ wordBytes v
  | .lbeq v => [0x10, 0x27] ++ wordBytes v
  | .lbvc v => [0x10, 0x28] ++ wordBytes v
  | .lbvs v => [0x10, 0x29] ++ wordBytes v
  | .lbpl v => [0x10, 0x2A] ++ wordBytes v
  | .lbmi v => [0x10, 0x2B] ++ wordBytes v
  | .lbge v => [0x10, 0x2C] ++ wordBytes v
  | .lblt v => [0x10, 0x2D] ++ wordBytes v
  | .lbgt v => [0x10, 0x2E] ++ wordBytes v
  | .lble v => [0x10, 0x2F] ++ wordBytes v
  | .bsr v => [0x8D] ++ [v]
  | .lbsr v => [0x17] ++ wordBytes v
  -- system
  | .andcc v => [0x1C] ++ [v]
  | .orcc v => [0x1A] ++ [v]
  | .cwai v => [0x3C] ++ [v]
  | .nop => [0x12]
  | .jmp m => encodeMem [0x0E] [0x6E] [0x7E] m
  | .jsr m => encodeMem [0x9D] [0xAD] [0xBD] m
  | .rti => [0x3B]
  | .rts => [0x39]
  | .swi => [0x3F]
  | .swi2 => [0x10, 0x3F]
  | .swi3 => [0x11, 0x3F]
  | .sync => [0x13]

/-- The length of an instruction in bytes (R90, R111). -/
def Instr.length (i : Instr) : Nat := (encode i).length

/-! ## Words numbered as the opcode table numbers them -/

/-- The longest instruction has five bytes (R90). -/
def maxLength : Nat := 5

/-- The `n` low bytes of `w`, the lowest first. -/
def bytesOf : Nat → Nat → List Byte
  | 0, _ => []
  | n + 1, w => BitVec.ofNat 8 w :: bytesOf n (w / 256)

/-- The bytes of an opcode-table word. The table writes a two-byte opcode with its page byte in bits 15 to 8 (R103), so
a 16-bit word whose high byte is $10 or $11 is read high byte first; any other word has its first byte in bits 7 to 0
(log entry 16). Bytes above `nbits` are zero, up to the longest instruction. -/
def tableWordBytes (nbits w : Nat) : List Byte :=
  let page := w / 256 % 256
  let low := w % 256
  let given :=
    if nbits = 16 ∧ (page = 0x10 ∨ page = 0x11) then [BitVec.ofNat 8 page, BitVec.ofNat 8 low]
    else bytesOf (nbits / 8) w
  (given ++ List.replicate maxLength 0).take maxLength

/-- The instruction the decoder reads from an opcode-table word, if it reads one. -/
def decodeTableWord (nbits w : Nat) : Option Instr :=
  match decode (tableWordBytes nbits w) with
  | .done i _ => some i
  | _ => none

end Sys2Proof
end

