-- ==== Sys2Proof/Config.lean ====
section
/-! DEFINITION. What the spec leaves open and the model leaves free: constants with no body, so that no proof can see
their values. `any()` of 00_scope.md R12 is such a constant applied to the counter State.freeCount; the parameters of R4
that are settled once for a machine are such constants by themselves. -/

namespace Sys2Proof

/-- `UndefinedFlagDraw` (R4; 92_eei_decisions.md D12, D13): the value of the n-th free draw, as a flag. -/
opaque Config.freeFlag : Nat → Bool

/-- The value of the n-th free draw, as a byte: what a device answers, and what a read of an absent address returns
(20_memory.md R69; D29). -/
opaque Config.freeByte : Nat → Byte

/-- The members of `NMI_ARM_SET` that the source does not settle (60_exceptions.md R421; D18): LEAS, and PULU with the
S bit. -/
inductive ArmCandidate
  | leas | puluS
  deriving DecidableEq, Repr

/-- Is the candidate a member of `NMI_ARM_SET` (R4, R421; D18)? Left open. -/
opaque Config.nmiArmSet : ArmCandidate → Bool

/-- The BS output while waiting in CWAI, which the source does not state (60_exceptions.md R431). Left open. -/
opaque Config.cwaiBusStatusBS : Bool

end Sys2Proof
end

