-- ==== Sys2Proof/Machine/State.lean ====
section
/-! DEFINITION. The state of the MC6809 (10_state.md R20, R40 to R45), the inputs that one step reads from it as plain
data, the reasons a step can stop, and the state after reset. -/

namespace Sys2Proof.Machine

/-- The four run states (10_state.md R43). -/
inductive RunState
  /-- Instructions are fetched and executed. -/
  | running
  /-- Entered by SYNC: waiting for an interrupt line, nothing stacked (60_exceptions.md R418). -/
  | syncing
  /-- Entered by CWAI: the entire state is stacked, waiting for an unmasked interrupt (R417). -/
  | cwaiWaiting
  /-- Entered at an instruction boundary while HALT is low (R419). -/
  | halted
  deriving DecidableEq, Repr

/-- The input pins as one step sees them (10_state.md R44, 00_scope.md R11); `true` is the asserted level. -/
structure Pins where
  /-- RESET is low (R460). -/
  reset : Bool
  /-- HALT is low (R419). -/
  halt : Bool
  /-- A falling edge came on NMI since the last boundary (R403). -/
  nmiEdge : Bool
  /-- FIRQ is low (R404). -/
  firq : Bool
  /-- IRQ is low (R405). -/
  irq : Bool
  /-- `sync_short`: the line that ends a SYNC was low for fewer than 3 cycles (00_scope.md R4, R418). -/
  syncShort : Bool
  deriving DecidableEq, Repr

/-- No pin is asserted. -/
def Pins.inactive : Pins :=
  { reset := false, halt := false, nmiEdge := false, firq := false, irq := false, syncShort := false }

/-- What stands at an address (20_memory.md R69; 92_eei_decisions.md D29). -/
inductive RegionKind
  /-- A read returns the byte last written. -/
  | ram
  /-- A write is ignored, a read is fixed. -/
  | rom
  /-- Reads and writes are handed to a device. -/
  | device
  /-- Nothing: a read returns any value, a write is dropped. -/
  | absent
  deriving DecidableEq, Repr

/-- The addresses `first` to `last`, both included, and what stands there. -/
structure Region where
  first : Word
  last : Word
  kind : RegionKind
  deriving DecidableEq, Repr

/-- An access to a device, with the byte it answered or was given (20_memory.md R69). -/
inductive IoEvent
  | read (addr : Word) (v : Byte)
  | write (addr : Word) (v : Byte)
  deriving DecidableEq, Repr

/-- What a cycle of the bus does, as the outputs of the MPU show it (10_state.md R44, 60_exceptions.md R431): the
transfers of the MPU with the address and the byte on the bus, and the grants. What R/W, BA and BS are in each is in
Machine/Timing.lean. -/
inductive BusCycle
  /-- The MPU reads: `MemRead(addr, 1)` gave `v`. -/
  | read (addr : Word) (v : Byte)
  /-- The MPU writes: `MemWrite(addr, 1, v)`. -/
  | write (addr : Word) (v : Byte)
  /-- The MPU reads a byte of a vector, acknowledging the interrupt or the reset (R414). -/
  | acknowledge (addr : Word) (v : Byte)
  /-- DMA/BREQ is granted: another master has the bus (20_memory.md R74, 60_exceptions.md R420). -/
  | grant
  deriving DecidableEq, Repr

/-- Memory: the listed bytes by address (20_memory.md R60). Its operations are in Machine/Ops.lean. -/
abbrev Memory := List Host.Cell

/-- A write that another bus master makes (20_memory.md R74). -/
abbrev AgentWrite := Word × Byte

/-- The state of the machine. The fields from `a` to `run` are the spec's (10_state.md R20); those after them are
the model's own: the inputs and parameters of 00_scope.md R4 and R11 as plain data. -/
structure State where
  /-- Accumulator A (R21). -/
  a : Byte
  /-- Accumulator B (R21). -/
  b : Byte
  /-- The direct page register (R28). -/
  dp : Byte
  /-- The condition code register, E F H I N Z V C in bits 7 to 0 (R29). -/
  cc : Byte
  /-- Index register X (R23). -/
  x : Word
  /-- Index register Y (R23). -/
  y : Word
  /-- The user stack pointer (R24). -/
  u : Word
  /-- The hardware stack pointer (R24). -/
  s : Word
  /-- The program counter (R25). -/
  pc : Word
  /-- Memory (R40). -/
  mem : Memory
  /-- The NMI-armed latch (R41). -/
  nmiArmed : Bool
  /-- The pending-NMI latch (R42). -/
  nmiPending : Bool
  /-- The run state (R43). -/
  run : RunState
  /-- The pin samples of the next steps, one each; when the list is empty every pin is inactive (log entry 10). -/
  pins : List Pins
  /-- What another bus master writes, one batch for each coming step boundary and byte access of the MPU, in that
  order; when the list is empty there is no other master (R74; log entry 11). -/
  agent : List (List AgentWrite)
  /-- The regions that are not plain RAM; the first one that holds an address counts (R69; log entry 5). -/
  platform : List Region
  /-- The accesses made to devices, the latest last (R69; log entry 6). -/
  io : List IoEvent
  /-- The cycles of the bus in the latest step in which a byte was transferred or the bus was granted, the first one
  first (R44, R66, R431; log entry 35). -/
  bus : List BusCycle
  /-- How many free values have been drawn (R12; log entry 8). -/
  freeCount : Nat
  deriving DecidableEq, Repr

/-- The machine stops with a fault: bytes whose effect the spec does not give (60_exceptions.md R402). The state
stays as before the instruction, and nothing more is claimed. -/
inductive Fault
  /-- Raised by fetching an unused opcode or a doubled page byte (30_encoding.md R107, R108; D8, D9). Safe: the chip
  goes on in some way the spec does not give. -/
  | illegalOpcode (bytes : List Byte)
  /-- Raised by fetching an undefined indexed postbyte (R109; D10). Safe, for the same reason. -/
  | illegalPostbyte (postbyte : Byte)
  /-- Raised by fetching, or by executing as a term, TFR or EXG with an undefined register code or registers of two
  sizes (R110, R296 to R298; D11). Safe, for the same reason. -/
  | illegalRegisterCode (postbyte : Byte)
  deriving DecidableEq, Repr

/-- Why the model has no answer. -/
inductive Refusal
  /-- An instruction without a meaning, by its mnemonic; raised only by the dispatcher's arms. Safe: the model stops
  where the hardware goes on. No instruction is refused. -/
  | notModelled (mnemonic : String)
  deriving DecidableEq, Repr

/-- The outcome of a step or of an instruction. -/
abbrev Result := Host.Outcome State Fault Refusal

/-! ## Updates, one for each field that anything writes -/

/-- The state with A written. -/
def State.setA (t : State) (v : Byte) : State := { t with a := v }
/-- The state with B written. -/
def State.setB (t : State) (v : Byte) : State := { t with b := v }
/-- The state with DP written. -/
def State.setDp (t : State) (v : Byte) : State := { t with dp := v }
/-- The state with CC written. -/
def State.setCc (t : State) (v : Byte) : State := { t with cc := v }
/-- The state with X written. -/
def State.setX (t : State) (v : Word) : State := { t with x := v }
/-- The state with Y written. -/
def State.setY (t : State) (v : Word) : State := { t with y := v }
/-- The state with U written. -/
def State.setU (t : State) (v : Word) : State := { t with u := v }
/-- The state with S written. -/
def State.setS (t : State) (v : Word) : State := { t with s := v }
/-- The state with PC written. -/
def State.setPc (t : State) (v : Word) : State := { t with pc := v }
/-- The state with its memory replaced. -/
def State.setMem (t : State) (v : Memory) : State := { t with mem := v }
/-- The state with the NMI-armed latch written. -/
def State.setNmiArmed (t : State) (v : Bool) : State := { t with nmiArmed := v }
/-- The state with the pending-NMI latch written. -/
def State.setNmiPending (t : State) (v : Bool) : State := { t with nmiPending := v }
/-- The state with the run state written. -/
def State.setRun (t : State) (v : RunState) : State := { t with run := v }
/-- The state with its pin schedule replaced. -/
def State.setPins (t : State) (v : List Pins) : State := { t with pins := v }
/-- The state with the other master's schedule replaced. -/
def State.setAgent (t : State) (v : List (List AgentWrite)) : State := { t with agent := v }
/-- The state with its platform replaced. -/
def State.setPlatform (t : State) (v : List Region) : State := { t with platform := v }
/-- The state with its record of device accesses replaced. -/
def State.setIo (t : State) (v : List IoEvent) : State := { t with io := v }
/-- The state with its record of bus cycles replaced. -/
def State.setBus (t : State) (v : List BusCycle) : State := { t with bus := v }
/-- The state with its count of free values replaced. -/
def State.setFreeCount (t : State) (v : Nat) : State := { t with freeCount := v }

/-- The machine right after reset at power-on (10_state.md R45): F and I are 1, DP is $00, the NMI latches are clear,
the run state is Running, and PC is the reset vector read from a memory with nothing listed. A, B, X, Y, U, S and the
other bits of CC have no value in the spec: zero, DESIGN CHOICE, log entries 1 and 2. -/
def State.reset : State :=
  { a := 0x00, b := 0x00, dp := 0x00, cc := 0x50
    x := 0x0000, y := 0x0000, u := 0x0000, s := 0x0000, pc := 0x0000
    mem := []
    nmiArmed := false, nmiPending := false, run := .running
    pins := [], agent := [], platform := [], io := [], bus := [], freeCount := 0 }

end Sys2Proof.Machine
end

