-- ==== Sys2Proof/Machine/Flags.lean ====
section
/-! DEFINITION. The condition code bits (10_state.md R29 to R38), the free values the spec writes `any()`
(00_scope.md R12), and every flag computation: additions and subtractions of 8 and 16 bits
(41_accumulator_memory_8bit.md R170 to R172, 43_16bit_pointer.md R250 to R252). -/

namespace Sys2Proof.Machine

/-! ## Free values -/

/-- `any()` for a flag: the next free draw (R12; `UndefinedFlagDraw`, D12, D13). -/
def drawFlag (t : State) : Bool × State :=
  (Config.freeFlag t.freeCount, t.setFreeCount (t.freeCount + 1))

/-- `any()` for a byte: the next free draw (R12; 20_memory.md R69). -/
def drawByte (t : State) : Byte × State :=
  (Config.freeByte t.freeCount, t.setFreeCount (t.freeCount + 1))

/-! ## The bits of CC -/

/-- The condition code bits by name (R29). -/
inductive Flag
  | c | v | z | n | i | h | f | e
  deriving DecidableEq, Repr

/-- The bit number of a flag in CC (R29). -/
def Flag.bit : Flag → Nat
  | .c => 0
  | .v => 1
  | .z => 2
  | .n => 3
  | .i => 4
  | .h => 5
  | .f => 6
  | .e => 7

/-- The byte with one bit set. -/
def Flag.mask (k : Flag) : Byte := 1#8 <<< k.bit

/-- A CC byte with one flag written and the other seven bits kept (R6: `cc[x] <- b`). -/
def writeFlag (cc : Byte) (k : Flag) (b : Bool) : Byte :=
  if b then cc ||| k.mask else cc &&& ~~~k.mask

/-- The flag `cc[k]` (R6). -/
def State.flag (t : State) (k : Flag) : Bool := t.cc.getLsbD k.bit

/-- `cc[k] <- b` (R6). -/
def State.setFlag (t : State) (k : Flag) (b : Bool) : State := t.setCc (writeFlag t.cc k b)

/-- `cc[k] <- any()` (R12). -/
def State.freeFlag (t : State) (k : Flag) : State :=
  let d := drawFlag t
  d.2.setFlag k d.1

/-- `cc[N] <- r[w-1]; cc[Z] <- (r = 0)` (R32, R33). -/
def State.setNZ {w : Nat} (t : State) (r : BitVec w) : State :=
  (t.setFlag .n r.msb).setFlag .z (r == 0#w)

/-- `cc[N]` and `cc[Z]` from the result, then `cc[V]` (R31 to R33). -/
def State.setNZV {w : Nat} (t : State) (r : BitVec w) (v : Bool) : State :=
  (t.setNZ r).setFlag .v v

/-- `cc[N]` and `cc[Z]` from the result, then `cc[V]` and `cc[C]` (R30 to R33). -/
def State.setNZVC {w : Nat} (t : State) (r : BitVec w) (v c : Bool) : State :=
  (t.setNZV r v).setFlag .c c

/-- `cc[N]`, `cc[Z]` and `cc[C]`, with V kept: the right shifts (R31). -/
def State.setNZC {w : Nat} (t : State) (r : BitVec w) (c : Bool) : State :=
  (t.setNZ r).setFlag .c c

/-- `logic8` and `logic16`: N and Z from the value, V cleared, H and C kept (41 R172, 43 R252). -/
def State.setLogic {w : Nat} (t : State) (r : BitVec w) : State := t.setNZV r false

/-! ## Sums and differences -/

/-- A result of `w` bits with its signed overflow and its carry or borrow. -/
structure Alu (w : Nat) where
  r : BitVec w
  v : Bool
  c : Bool
  deriving DecidableEq, Repr

/-- The sum `a + b + cin` (R170, R250): `c` is the carry out of the top bit, `v` the signed overflow. -/
def addBits {w : Nat} (a b : BitVec w) (cin : Bool) : Alu w :=
  let sum := a.toNat + b.toNat + cin.toNat
  let r := BitVec.ofNat w sum
  { r := r, v := a.msb == b.msb && r.msb != a.msb, c := decide (2 ^ w ≤ sum) }

/-- The difference `a - b - bin` (R171, R251): `c` is the borrow, `v` the signed overflow. -/
def subBits {w : Nat} (a b : BitVec w) (bin : Bool) : Alu w :=
  let d : Int := (a.toNat : Int) - (b.toNat : Int) - (bin.toNat : Int)
  let r := BitVec.ofInt w d
  { r := r, v := a.msb != b.msb && r.msb != a.msb, c := decide (d < 0) }

/-- The carry out of bit 3 of `a + b + cin` (R170). -/
def halfCarry (a b : Byte) (cin : Bool) : Bool :=
  decide (16 ≤ a.toNat % 16 + b.toNat % 16 + cin.toNat)

end Sys2Proof.Machine
end

