-- ==== Sys2Proof/Machine/Ops.lean ====
section
/-! DEFINITION. The named operations of the machine: memory in its canonical form, the platform and the other bus
master (20_memory.md), the registers as numbered operands, the stack primitives (R81, R82), the reset sequence, and
taking an exception and returning from one (60_exceptions.md R409 to R417, 46_system_misc.md R366). -/

namespace Sys2Proof.Machine

/-! ## Memory -/

/-- What a byte of memory that nothing has written reads as. The spec gives RAM no value at power-on (10_state.md R45);
$00 is a DESIGN CHOICE, log entry 3. -/
def Memory.unlisted : Byte := 0x00

/-- How many addresses there are (R60). -/
def Memory.size : Nat := 65536

/-- The byte at an address. -/
def Memory.read : Memory → Nat → Byte
  | [], _ => Memory.unlisted
  | (k, v) :: rest, a => if k = a then v else Memory.read rest a

/-- The memory with one byte written, in canonical form: addresses rising, nothing listed that reads so unlisted. -/
def Memory.write : Memory → Nat → Byte → Memory
  | [], a, v => if v = Memory.unlisted then [] else [(a, v)]
  | (k, w) :: rest, a, v =>
    if a < k then (if v = Memory.unlisted then (k, w) :: rest else (a, v) :: (k, w) :: rest)
    else if a = k then (if v = Memory.unlisted then rest else (a, v) :: rest)
    else (k, w) :: Memory.write rest a v

/-- The canonical form from address `lo` up. -/
def Memory.wfFrom (lo : Nat) : Memory → Bool
  | [] => true
  | (k, v) :: rest =>
    decide (lo ≤ k) && decide (k < Memory.size) && (v != Memory.unlisted) && Memory.wfFrom (k + 1) rest

/-- The canonical form: addresses strictly rising inside the address space, no entry equal to the unlisted byte. -/
def Memory.wf (m : Memory) : Bool := Memory.wfFrom 0 m

/-- The byte that plain memory holds at an address, with no access made. -/
def State.peek (t : State) (addr : Word) : Byte := Memory.read t.mem addr.toNat

/-- The state with one byte of plain memory replaced, with no access made. -/
def State.poke (t : State) (addr : Word) (v : Byte) : State := t.setMem (Memory.write t.mem addr.toNat v)

/-! ## The platform and the other bus master -/

/-- Does the region hold the address? -/
def Region.holds (r : Region) (addr : Word) : Bool :=
  decide (r.first.toNat ≤ addr.toNat) && decide (addr.toNat ≤ r.last.toNat)

/-- What stands at an address: the first region that holds it, and plain RAM outside all regions (R69). -/
def State.kindAt (t : State) (addr : Word) : RegionKind :=
  match t.platform.find? (fun r => r.holds addr) with
  | some r => r.kind
  | none => .ram

/-- One write of the other bus master: it changes RAM only (R74). -/
def agentWrite (t : State) (w : AgentWrite) : State :=
  match t.kindAt w.1 with
  | .ram => t.poke w.1 w.2
  | .rom | .device | .absent => t

/-- One more cycle on the record of the bus (R44, R66). -/
def recordCycle (c : BusCycle) (t : State) : State := t.setBus (t.bus ++ [c])

/-- The other bus master's turn: it makes the next batch of its writes, and the bus is granted to it for that; an empty
batch is a point at which it does not ask for the bus (R67, R74; 60_exceptions.md R420). -/
def agentTurn (t : State) : State :=
  match t.agent with
  | [] => t
  | [] :: later => t.setAgent later
  | (w :: rest) :: later => recordCycle .grant (((w :: rest).foldl agentWrite t).setAgent later)

/-- What the platform answers to a read of one byte (20_memory.md R69). -/
def platformRead (addr : Word) (t : State) : Byte × State :=
  match t.kindAt addr with
  | .ram | .rom => (t.peek addr, t)
  | .device =>
    let d := drawByte t
    (d.1, d.2.setIo (d.2.io ++ [.read addr d.1]))
  | .absent => drawByte t

/-- What the platform does with a write of one byte (R69). -/
def platformWrite (addr : Word) (v : Byte) (t : State) : State :=
  match t.kindAt addr with
  | .ram => t.poke addr v
  | .rom | .absent => t
  | .device => t.setIo (t.io ++ [.write addr v])

/-- One byte read in the cycle given: the other master's turn, the platform's answer, and the cycle on the record. -/
def readByteAs (cycle : Word → Byte → BusCycle) (addr : Word) (t : State) : Byte × State :=
  let v := platformRead addr (agentTurn t)
  (v.1, recordCycle (cycle addr v.1) v.2)

/-- Two bytes read in the cycle given: the high byte at `addr` first, then the low byte at the next address modulo 2^16
(R61, R65, R66). -/
def readWordAs (cycle : Word → Byte → BusCycle) (addr : Word) (t : State) : Word × State :=
  let h := readByteAs cycle addr t
  let l := readByteAs cycle (addr + 1) h.2
  (joinBytes h.1 l.1, l.2)

/-- `MemRead(addr, 1)` (00_scope.md R7). -/
def readByte (addr : Word) (t : State) : Byte × State := readByteAs .read addr t

/-- `MemRead(addr, 2)` (R7). -/
def readWord (addr : Word) (t : State) : Word × State := readWordAs .read addr t

/-- `MemWrite(addr, 1, v)` (R7; 20_memory.md R69). -/
def writeByte (addr : Word) (v : Byte) (t : State) : State :=
  recordCycle (.write addr v) (platformWrite addr v (agentTurn t))

/-- `MemWrite(addr, 2, v)`: the high byte first (R7, R61, R65, R66). -/
def writeWord (addr : Word) (v : Word) (t : State) : State :=
  writeByte (addr + 1) (lowByte v) (writeByte addr (highByte v) t)

/-! ## Registers -/

/-- The 16-bit register D, the view A:B (10_state.md R22). -/
def State.d (t : State) : Word := joinBytes t.a t.b

/-- `r[D] <- v` (R6, R22). -/
def State.setD (t : State) (v : Word) : State := (t.setA (highByte v)).setB (lowByte v)

/-- The accumulators of the 8-bit instructions (R21). -/
inductive Acc
  | a | b
  deriving DecidableEq, Repr

/-- The value of an accumulator. -/
def State.acc (t : State) : Acc → Byte
  | .a => t.a
  | .b => t.b

/-- An accumulator written. -/
def State.setAcc (t : State) : Acc → Byte → State
  | .a, v => t.setA v
  | .b, v => t.setB v

/-- The value of a pointer register (R23, R24). -/
def State.ptr (t : State) : Ptr → Word
  | .x => t.x
  | .y => t.y
  | .u => t.u
  | .s => t.s

/-- A pointer register written. It does not arm NMI: that is done by the instructions of `NMI_ARM_SET` (R421). -/
def State.setPtr (t : State) : Ptr → Word → State
  | .x, v => t.setX v
  | .y, v => t.setY v
  | .u, v => t.setU v
  | .s, v => t.setS v

/-- The 16-bit registers of the 16-bit instructions: D and the pointer registers (43_16bit_pointer.md). -/
inductive Wide
  | d
  | ptr (p : Ptr)
  deriving DecidableEq, Repr

/-- The value of a 16-bit register. -/
def State.wide (t : State) : Wide → Word
  | .d => t.d
  | .ptr p => t.ptr p

/-- A 16-bit register written. -/
def State.setWide (t : State) : Wide → Word → State
  | .d, v => t.setD v
  | .ptr p, v => t.setPtr p v

/-- Arms the NMI input (R41, R421). -/
def armNmi (t : State) : State := t.setNmiArmed true

/-- Arms the NMI input if the candidate is a member of `NMI_ARM_SET` (R421; D18). -/
def armNmiIf (c : ArmCandidate) (t : State) : State :=
  t.setNmiArmed (t.nmiArmed || Config.nmiArmSet c)

/-! ## Stacks -/

/-- `push8(sp, v)`: decrement, then store (R81). -/
def push8 (p : Ptr) (v : Byte) (t : State) : State :=
  writeByte (t.ptr p - 1) v (t.setPtr p (t.ptr p - 1))

/-- `push16(sp, v)`: the low byte, then the high byte (R81). -/
def push16 (p : Ptr) (v : Word) (t : State) : State :=
  push8 p (highByte v) (push8 p (lowByte v) t)

/-- `pull8(sp)`: load, then increment (R82). -/
def pull8 (p : Ptr) (t : State) : Byte × State :=
  let v := readByte (t.ptr p) t
  (v.1, v.2.setPtr p (t.ptr p + 1))

/-- `pull16(sp)`: the high byte, then the low byte (R82). -/
def pull16 (p : Ptr) (t : State) : Word × State :=
  let h := pull8 p t
  let l := pull8 p h.2
  (joinBytes h.1 l.1, l.2)

/-- A byte pulled into a register. -/
def pullByteTo (p : Ptr) (put : State → Byte → State) (t : State) : State :=
  let v := pull8 p t
  put v.2 v.1

/-- A word pulled into a register. -/
def pullWordTo (p : Ptr) (put : State → Word → State) (t : State) : State :=
  let v := pull16 p t
  put v.2 v.1

/-! ## Vectors -/

/-- The address of a vector's high byte, by which an event is identified (R70, R400; D26). -/
def vectorSwi3 : Word := 0xFFF2
/-- The SWI2 vector (R70). -/
def vectorSwi2 : Word := 0xFFF4
/-- The FIRQ vector (R70). -/
def vectorFirq : Word := 0xFFF6
/-- The IRQ vector (R70). -/
def vectorIrq : Word := 0xFFF8
/-- The SWI vector (R70). -/
def vectorSwi : Word := 0xFFFA
/-- The NMI vector (R70). -/
def vectorNmi : Word := 0xFFFC
/-- The reset vector (R70). -/
def vectorReset : Word := 0xFFFE

/-- `pc <- MemRead(v, 2)`, absolute indirect: both reads acknowledge (40_addressing_modes.md R153, 60_exceptions.md
R414, R431). -/
def loadVector (v : Word) (t : State) : State :=
  let w := readWordAs .acknowledge v t
  w.2.setPc w.1

/-! ## Taking an exception and returning from it -/

/-- `StackEntire()`: the twelve bytes of the entire state (R409, 10_state.md R47). -/
def stackEntire (t : State) : State :=
  let t := push16 .s t.pc t
  let t := push16 .s t.u t
  let t := push16 .s t.y t
  let t := push16 .s t.x t
  let t := push8 .s t.dp t
  let t := push8 .s t.b t
  let t := push8 .s t.a t
  push8 .s t.cc t

/-- The subset that FIRQ stacks: PC, then CC with E cleared (R411). -/
def stackSubset (t : State) : State :=
  let t := push16 .s t.pc t
  let t := t.setFlag .e false
  push8 .s t.cc t

/-- What an exception pushes. -/
inductive Frame
  /-- The entire state, with E set (R409, R410, R412, R368 to R370). -/
  | entire
  /-- PC and CC, with E cleared (R411). -/
  | subset
  /-- Nothing: CWAI has stacked the entire state (R417). -/
  | stacked
  deriving DecidableEq, Repr

/-- The frame pushed on the hardware stack. -/
def pushFrame : Frame → State → State
  | .entire, t => stackEntire (t.setFlag .e true)
  | .subset, t => stackSubset t
  | .stacked, t => t

/-- The masks set on entry, after CC has been pushed (R400, R410 to R413). -/
def setMasks (setI setF : Bool) (t : State) : State :=
  (t.setFlag .i (t.flag .i || setI)).setFlag .f (t.flag .f || setF)

/-- Taking an exception: push the frame, set the masks, load PC from the vector (R400, R409 to R414). -/
def takeException (frame : Frame) (setI setF : Bool) (vector : Word) (t : State) : State :=
  loadVector vector (setMasks setI setF (pushFrame frame t))

/-- Everything but CC and PC, pulled in the order of the stacked image (R366, R47). -/
def pullEntire (t : State) : State :=
  let t := pullByteTo .s State.setA t
  let t := pullByteTo .s State.setB t
  let t := pullByteTo .s State.setDp t
  let t := pullWordTo .s State.setX t
  let t := pullWordTo .s State.setY t
  pullWordTo .s State.setU t

/-- The return from an exception: CC, then the rest of the entire state if the E bit just pulled is set, then PC
(46_system_misc.md R366, 60_exceptions.md R416). -/
def returnFromException (t : State) : State :=
  let t := pullByteTo .s State.setCc t
  let t := if t.flag .e then pullEntire t else t
  pullWordTo .s State.setPc t

/-- The reset sequence: F and I set, DP cleared, NMI blocked, PC from the reset vector, the run state Running; nothing
else is written (70_reset_and_hazards.md R461). -/
def resetSequence (t : State) : State :=
  let t := setMasks true true t
  let t := (t.setDp 0x00).setNmiArmed false
  loadVector vectorReset (t.setRun .running)

end Sys2Proof.Machine
end

