-- ==== Sys2Proof/Machine/Operands.lean ====
section
/-! DEFINITION. What each operand form computes (40_addressing_modes.md R130 to R157). A form answers its value or
effective address together with the state it leaves: an increment or decrement of the pointer register and the accesses
it makes. PC is already the address of the next instruction (R111). -/

namespace Sys2Proof.Machine

/-- `sext_16` of an 8-bit offset added to a base, modulo 2^16 (R9, R65). -/
def addOffset8 (base : Word) (off : Byte) : Word := base + off.signExtend 16

/-- The direct address `r[DP]:lo8` (R133). -/
def directEA (lo : Byte) (t : State) : Word := joinBytes t.dp lo

/-- Has the form one more level of indirection (R150, R151)? -/
def indexedIndirect : Indexed → Bool
  | .off5 _ _ => false
  | .inc1 _ => false
  | .inc2 _ ind => ind
  | .dec1 _ => false
  | .dec2 _ ind => ind
  | .noOff _ ind => ind
  | .accB _ ind => ind
  | .accA _ ind => ind
  | .accD _ ind => ind
  | .off8 _ _ ind => ind
  | .off16 _ _ ind => ind
  | .pcr8 _ _ ind => ind
  | .pcr16 _ _ ind => ind
  | .extInd _ => true

/-- The address a form computes before any indirection (R136 to R149, R151). -/
def indexedBase (i : Indexed) (t : State) : Word :=
  match i with
  | .off5 r n => t.ptr r + n.signExtend 16
  | .inc1 r => t.ptr r
  | .inc2 r _ => t.ptr r
  | .dec1 r => t.ptr r - 1
  | .dec2 r _ => t.ptr r - 2
  | .noOff r _ => t.ptr r
  | .accB r _ => addOffset8 (t.ptr r) t.b
  | .accA r _ => addOffset8 (t.ptr r) t.a
  | .accD r _ => t.ptr r + t.d
  | .off8 r n _ => addOffset8 (t.ptr r) n
  | .off16 r n _ => t.ptr r + n
  | .pcr8 _ n _ => addOffset8 t.pc n
  | .pcr16 _ n _ => t.pc + n
  | .extInd addr => addr

/-- The increment or decrement of the pointer register, for the four forms that have one (R138 to R141). -/
def indexedUpdate (i : Indexed) (t : State) : State :=
  match i with
  | .inc1 r => t.setPtr r (t.ptr r + 1)
  | .inc2 r _ => t.setPtr r (t.ptr r + 2)
  | .dec1 r => t.setPtr r (t.ptr r - 1)
  | .dec2 r _ => t.setPtr r (t.ptr r - 2)
  | .off5 _ _ | .noOff _ _ | .accB _ _ | .accA _ _ | .accD _ _ | .off8 _ _ _ | .off16 _ _ _
  | .pcr8 _ _ _ | .pcr16 _ _ _ | .extInd _ => t

/-- `IndexedEA`: the effective address, the pointer register updated and the indirect pointer read before anything
else (R136, R150, R155; D19). -/
def indexedEA (i : Indexed) (t : State) : Word × State :=
  if indexedIndirect i then readWord (indexedBase i t) (indexedUpdate i t)
  else (indexedBase i t, indexedUpdate i t)

/-- `EA(mode)` of a memory operand (R157). -/
def memEA (m : Mem) (t : State) : Word × State :=
  match m with
  | .dir lo => (directEA lo t, t)
  | .idx i => indexedEA i t
  | .ext addr => (addr, t)

/-- `Operand8(mode)` (R157). -/
def operand8 (o : Src8) (t : State) : Byte × State :=
  match o with
  | .imm v => (v, t)
  | .dir lo => readByte (directEA lo t) t
  | .idx i =>
    let ea := indexedEA i t
    readByte ea.1 ea.2
  | .ext addr => readByte addr t

/-- `Operand16(mode)` (R157). -/
def operand16 (o : Src16) (t : State) : Word × State :=
  match o with
  | .imm v => (v, t)
  | .dir lo => readWord (directEA lo t) t
  | .idx i =>
    let ea := indexedEA i t
    readWord ea.1 ea.2
  | .ext addr => readWord addr t

end Sys2Proof.Machine
end

