-- ==== Sys2Proof/Machine/AccMem8.lean ====
section
/-! DEFINITION. The 22 instructions that combine accumulator A or B with an 8-bit operand
(41_accumulator_memory_8bit.md R170 to R195). -/

namespace Sys2Proof.Machine

/-! ## Shared operations -/

/-- ADC and ADD: the operand and, with carry, the flag C are added into the accumulator; H, N, Z, V, C (R170, R174
to R177). -/
def addAcc (r : Acc) (withCarry : Bool) (o : Src8) (t : State) : State :=
  let m := operand8 o t
  let t := m.2
  let cin := withCarry && t.flag .c
  let sum := addBits (t.acc r) m.1 cin
  let half := halfCarry (t.acc r) m.1 cin
  (((t.setAcc r sum.r).setFlag .h half).setNZVC sum.r sum.v sum.c)

/-- SBC and SUB: the operand and, with borrow, the flag C are subtracted from the accumulator; H is free, then N, Z,
V, C (R171, R190, R191, R194, R195). -/
def subAcc (r : Acc) (withBorrow : Bool) (o : Src8) (t : State) : State :=
  let m := operand8 o t
  let t := m.2
  let diff := subBits (t.acc r) m.1 (withBorrow && t.flag .c)
  (((t.setAcc r diff.r).freeFlag .h).setNZVC diff.r diff.v diff.c)

/-- CMP: the flags of the subtraction, the difference discarded (R171, R182, R183). -/
def cmpAcc (r : Acc) (o : Src8) (t : State) : State :=
  let m := operand8 o t
  let t := m.2
  let diff := subBits (t.acc r) m.1 false
  (t.freeFlag .h).setNZVC diff.r diff.v diff.c

/-- AND, EOR and OR: the accumulator combined with the operand; N, Z, V (R172, R178, R179, R184, R185, R188, R189). -/
def logicAcc (r : Acc) (op : Byte → Byte → Byte) (o : Src8) (t : State) : State :=
  let m := operand8 o t
  let t := m.2
  let v := op (t.acc r) m.1
  (t.setAcc r v).setLogic v

/-- BIT: the flags of AND, the result discarded (R172, R180, R181). -/
def bitAcc (r : Acc) (o : Src8) (t : State) : State :=
  let m := operand8 o t
  m.2.setLogic (m.2.acc r &&& m.1)

/-- LD: the operand into the accumulator; N, Z, V (R172, R186, R187). -/
def loadAcc (r : Acc) (o : Src8) (t : State) : State :=
  let m := operand8 o t
  (m.2.setAcc r m.1).setLogic m.1

/-- ST: the accumulator to the effective address; N, Z, V from the register (R172, R192, R193; D37). -/
def storeAcc (r : Acc) (m : Mem) (t : State) : State :=
  let ea := memEA m t
  let v := ea.2.acc r
  (writeByte ea.1 v ea.2).setLogic v

/-! ## The instructions -/

/-- ADCA: add memory and carry into A (R174). -/
def execAdca (o : Src8) (t : State) : Result := .next (addAcc .a true o t)

/-- ADCB: add memory and carry into B (R175). -/
def execAdcb (o : Src8) (t : State) : Result := .next (addAcc .b true o t)

/-- ADDA: add memory into A (R176). -/
def execAdda (o : Src8) (t : State) : Result := .next (addAcc .a false o t)

/-- ADDB: add memory into B (R177). -/
def execAddb (o : Src8) (t : State) : Result := .next (addAcc .b false o t)

/-- ANDA: logical AND memory into A (R178). -/
def execAnda (o : Src8) (t : State) : Result := .next (logicAcc .a (· &&& ·) o t)

/-- ANDB: logical AND memory into B (R179). -/
def execAndb (o : Src8) (t : State) : Result := .next (logicAcc .b (· &&& ·) o t)

/-- BITA: bit test A with memory (R180). -/
def execBita (o : Src8) (t : State) : Result := .next (bitAcc .a o t)

/-- BITB: bit test B with memory (R181). -/
def execBitb (o : Src8) (t : State) : Result := .next (bitAcc .b o t)

/-- CMPA: compare memory from A (R182). -/
def execCmpa (o : Src8) (t : State) : Result := .next (cmpAcc .a o t)

/-- CMPB: compare memory from B (R183). -/
def execCmpb (o : Src8) (t : State) : Result := .next (cmpAcc .b o t)

/-- EORA: exclusive OR memory into A (R184). -/
def execEora (o : Src8) (t : State) : Result := .next (logicAcc .a (· ^^^ ·) o t)

/-- EORB: exclusive OR memory into B (R185). -/
def execEorb (o : Src8) (t : State) : Result := .next (logicAcc .b (· ^^^ ·) o t)

/-- LDA: load A from memory (R186). -/
def execLda (o : Src8) (t : State) : Result := .next (loadAcc .a o t)

/-- LDB: load B from memory (R187). -/
def execLdb (o : Src8) (t : State) : Result := .next (loadAcc .b o t)

/-- ORA: inclusive OR memory into A (R188). -/
def execOra (o : Src8) (t : State) : Result := .next (logicAcc .a (· ||| ·) o t)

/-- ORB: inclusive OR memory into B (R189). -/
def execOrb (o : Src8) (t : State) : Result := .next (logicAcc .b (· ||| ·) o t)

/-- SBCA: subtract memory and borrow from A (R190). -/
def execSbca (o : Src8) (t : State) : Result := .next (subAcc .a true o t)

/-- SBCB: subtract memory and borrow from B (R191). -/
def execSbcb (o : Src8) (t : State) : Result := .next (subAcc .b true o t)

/-- STA: store A into memory (R192). -/
def execSta (m : Mem) (t : State) : Result := .next (storeAcc .a m t)

/-- STB: store B into memory (R193). -/
def execStb (m : Mem) (t : State) : Result := .next (storeAcc .b m t)

/-- SUBA: subtract memory from A (R194). -/
def execSuba (o : Src8) (t : State) : Result := .next (subAcc .a false o t)

/-- SUBB: subtract memory from B (R195). -/
def execSubb (o : Src8) (t : State) : Result := .next (subAcc .b false o t)

end Sys2Proof.Machine
end

