-- ==== Sys2Proof/Machine/Branch.lean ====
section
/-! DEFINITION. The branches and the branches to subroutine (45_branch.md R310 to R350). -/

namespace Sys2Proof.Machine

/-! ## Shared operations -/

/-- The sixteen branch conditions, in the order of their codes 0 to F (R310). -/
inductive Cond
  | always | never | higher | lowerOrSame | carryClear | carrySet | notEqual | equal
  | overflowClear | overflowSet | plus | minus | greaterOrEqual | less | greater | lessOrEqual
  deriving DecidableEq, Repr

/-- `cond(c)` on the four flags N, Z, V, C (R310). -/
def condHolds (k : Cond) (n z v c : Bool) : Bool :=
  match k with
  | .always => true
  | .never => false
  | .higher => !(c || z)
  | .lowerOrSame => c || z
  | .carryClear => !c
  | .carrySet => c
  | .notEqual => !z
  | .equal => z
  | .overflowClear => !v
  | .overflowSet => v
  | .plus => !n
  | .minus => n
  | .greaterOrEqual => !(n ^^ v)
  | .less => n ^^ v
  | .greater => !(z || (n ^^ v))
  | .lessOrEqual => z || (n ^^ v)

/-- Does the condition hold in the state (R310)? -/
def takes (k : Cond) (t : State) : Bool := condHolds k (t.flag .n) (t.flag .z) (t.flag .v) (t.flag .c)

/-- A short branch: PC is already the address of the next instruction (R311). -/
def branchShort (k : Cond) (off : Byte) (t : State) : State :=
  if takes k t then t.setPc (addOffset8 t.pc off) else t

/-- A long branch (R312). -/
def branchLong (k : Cond) (off : Word) (t : State) : State :=
  if takes k t then t.setPc (t.pc + off) else t

/-- A call: the address of the next instruction pushed on the hardware stack, then PC to the target (R349, R350,
46_system_misc.md R365; D20). -/
def callTo (target : Word) (t : State) : State := (push16 .s t.pc t).setPc target

/-! ## The instructions -/

/-- BRA: branch always (R313). -/
def execBra (off : Byte) (t : State) : Result := .next (branchShort .always off t)

/-- BRN: branch never (R314). -/
def execBrn (off : Byte) (t : State) : Result := .next (branchShort .never off t)

/-- BHI: branch if higher (R315). -/
def execBhi (off : Byte) (t : State) : Result := .next (branchShort .higher off t)

/-- BLS: branch on lower or same (R316). -/
def execBls (off : Byte) (t : State) : Result := .next (branchShort .lowerOrSame off t)

/-- BCC: branch on carry clear (R317). -/
def execBcc (off : Byte) (t : State) : Result := .next (branchShort .carryClear off t)

/-- BHS: branch if higher or same (R318). -/
def execBhs (off : Byte) (t : State) : Result := .next (branchShort .carryClear off t)

/-- BCS: branch on carry set (R319). -/
def execBcs (off : Byte) (t : State) : Result := .next (branchShort .carrySet off t)

/-- BLO: branch on lower (R320). -/
def execBlo (off : Byte) (t : State) : Result := .next (branchShort .carrySet off t)

/-- BNE: branch not equal (R321). -/
def execBne (off : Byte) (t : State) : Result := .next (branchShort .notEqual off t)

/-- BEQ: branch on equal (R322). -/
def execBeq (off : Byte) (t : State) : Result := .next (branchShort .equal off t)

/-- BVC: branch on overflow clear (R323). -/
def execBvc (off : Byte) (t : State) : Result := .next (branchShort .overflowClear off t)

/-- BVS: branch on overflow set (R324). -/
def execBvs (off : Byte) (t : State) : Result := .next (branchShort .overflowSet off t)

/-- BPL: branch on plus (the page prints "Branch of Plus") (R325). -/
def execBpl (off : Byte) (t : State) : Result := .next (branchShort .plus off t)

/-- BMI: branch on minus (R326). -/
def execBmi (off : Byte) (t : State) : Result := .next (branchShort .minus off t)

/-- BGE: branch on greater than or equal to zero (R327). -/
def execBge (off : Byte) (t : State) : Result := .next (branchShort .greaterOrEqual off t)

/-- BLT: branch on less than zero (R328). -/
def execBlt (off : Byte) (t : State) : Result := .next (branchShort .less off t)

/-- BGT: branch on greater (R329). -/
def execBgt (off : Byte) (t : State) : Result := .next (branchShort .greater off t)

/-- BLE: branch on less than or equal to zero (R330). -/
def execBle (off : Byte) (t : State) : Result := .next (branchShort .lessOrEqual off t)

/-- LBRA: long form of BRA (R331). -/
def execLbra (off : Word) (t : State) : Result := .next (branchLong .always off t)

/-- LBRN: long form of BRN (R332). -/
def execLbrn (off : Word) (t : State) : Result := .next (branchLong .never off t)

/-- LBHI: long form of BHI (R333). -/
def execLbhi (off : Word) (t : State) : Result := .next (branchLong .higher off t)

/-- LBLS: long form of BLS (R334). -/
def execLbls (off : Word) (t : State) : Result := .next (branchLong .lowerOrSame off t)

/-- LBCC: long form of BCC (R335). -/
def execLbcc (off : Word) (t : State) : Result := .next (branchLong .carryClear off t)

/-- LBHS: long form of BHS (R336). -/
def execLbhs (off : Word) (t : State) : Result := .next (branchLong .carryClear off t)

/-- LBCS: long form of BCS (R337). -/
def execLbcs (off : Word) (t : State) : Result := .next (branchLong .carrySet off t)

/-- LBLO: long form of BLO (R338). -/
def execLblo (off : Word) (t : State) : Result := .next (branchLong .carrySet off t)

/-- LBNE: long form of BNE (R339). -/
def execLbne (off : Word) (t : State) : Result := .next (branchLong .notEqual off t)

/-- LBEQ: long form of BEQ (R340). -/
def execLbeq (off : Word) (t : State) : Result := .next (branchLong .equal off t)

/-- LBVC: long form of BVC (R341). -/
def execLbvc (off : Word) (t : State) : Result := .next (branchLong .overflowClear off t)

/-- LBVS: long form of BVS (R342). -/
def execLbvs (off : Word) (t : State) : Result := .next (branchLong .overflowSet off t)

/-- LBPL: long form of BPL (R343). -/
def execLbpl (off : Word) (t : State) : Result := .next (branchLong .plus off t)

/-- LBMI: long form of BMI (R344). -/
def execLbmi (off : Word) (t : State) : Result := .next (branchLong .minus off t)

/-- LBGE: long form of BGE (R345). -/
def execLbge (off : Word) (t : State) : Result := .next (branchLong .greaterOrEqual off t)

/-- LBLT: long form of BLT (R346). -/
def execLblt (off : Word) (t : State) : Result := .next (branchLong .less off t)

/-- LBGT: long form of BGT (R347). -/
def execLbgt (off : Word) (t : State) : Result := .next (branchLong .greater off t)

/-- LBLE: long form of BLE (R348). -/
def execLble (off : Word) (t : State) : Result := .next (branchLong .lessOrEqual off t)

/-- BSR: branch to subroutine (R349). -/
def execBsr (off : Byte) (t : State) : Result := .next (callTo (addOffset8 t.pc off) t)

/-- LBSR: long branch to subroutine (R350). -/
def execLbsr (off : Word) (t : State) : Result := .next (callTo (t.pc + off) t)

end Sys2Proof.Machine
end

