-- ==== Sys2Proof/Machine/Rmw8.lean ====
section
/-! DEFINITION. The 8-bit read-modify-write instructions on A, B and memory, DAA and MUL (42_shift_rmw_8bit.md R200 to
R238). -/

namespace Sys2Proof.Machine

/-! ## What becomes of the operand byte and of the flags -/

/-- ASL and LSL: H free; N, Z; V is b7 xor b6; C is b7 (R201 to R203, R219 to R221). -/
def aslByte (m : Byte) (t : State) : Byte × State :=
  let r := m <<< 1
  (r, (t.freeFlag .h).setNZVC r (m.getLsbD 7 != m.getLsbD 6) (m.getLsbD 7))

/-- ASR: bit 7 kept; H free; N, Z; C is b0; V kept (R204 to R206). -/
def asrByte (m : Byte) (t : State) : Byte × State :=
  let r := m.sshiftRight 1
  (r, (t.freeFlag .h).setNZC r (m.getLsbD 0))

/-- CLR: zero; N, V, C cleared, Z set (R207 to R209). -/
def clrByte (_ : Byte) (t : State) : Byte × State :=
  (0x00, t.setNZVC (0x00 : Byte) false false)

/-- COM: the complement; N, Z; V cleared; C set (R210 to R212). -/
def comByte (m : Byte) (t : State) : Byte × State :=
  let r := ~~~m
  (r, t.setNZVC r false true)

/-- DEC: N, Z; V set when the operand was $80; C kept (R213 to R215). -/
def decByte (m : Byte) (t : State) : Byte × State :=
  let r := m - 1
  (r, t.setNZV r (m == 0x80))

/-- INC: N, Z; V set when the operand was $7F; C kept (R216 to R218). -/
def incByte (m : Byte) (t : State) : Byte × State :=
  let r := m + 1
  (r, t.setNZV r (m == 0x7F))

/-- LSR: zero enters bit 7; N cleared, Z; C is b0; V kept (R222 to R224). -/
def lsrByte (m : Byte) (t : State) : Byte × State :=
  let r := m >>> 1
  (r, t.setNZC r (m.getLsbD 0))

/-- NEG: zero less the operand; H free; N, Z, V, C of the subtraction (R225 to R227, 41 R171). -/
def negByte (m : Byte) (t : State) : Byte × State :=
  let diff := subBits 0x00 m false
  (diff.r, (t.freeFlag .h).setNZVC diff.r diff.v diff.c)

/-- ROL: the old C enters bit 0; N, Z; V is b7 xor b6; C is b7 (R228 to R230). -/
def rolByte (m : Byte) (t : State) : Byte × State :=
  let r := (m <<< 1) ||| (if t.flag .c then 0x01 else 0x00)
  (r, t.setNZVC r (m.getLsbD 7 != m.getLsbD 6) (m.getLsbD 7))

/-- ROR: the old C enters bit 7; N, Z; C is b0; V kept (R231 to R233). -/
def rorByte (m : Byte) (t : State) : Byte × State :=
  let r := (m >>> 1) ||| (if t.flag .c then 0x80 else 0x00)
  (r, t.setNZC r (m.getLsbD 0))

/-! ## Shared operations -/

/-- The accumulator forms (R200). -/
def modifyAcc (f : Byte → State → Byte × State) (r : Acc) (t : State) : State :=
  let v := f (t.acc r) t
  v.2.setAcc r v.1

/-- The memory forms: one read, then one write of the same address (R200, 20_memory.md R68). -/
def modifyMem (f : Byte → State → Byte × State) (m : Mem) (t : State) : State :=
  let ea := memEA m t
  let old := readByte ea.1 ea.2
  let v := f old.1 old.2
  writeByte ea.1 v.1 v.2

/-- TSTA and TSTB (R234, R235). -/
def testAcc (r : Acc) (t : State) : State := t.setLogic (t.acc r)

/-- TST in memory: a read and no write (R236). -/
def testMem (m : Mem) (t : State) : State :=
  let ea := memEA m t
  let v := readByte ea.1 ea.2
  v.2.setLogic v.1

/-- The correction that DAA adds: $00, $06, $60 or $66 (R237). -/
def decimalCorrection (a : Byte) (h c : Bool) : Byte :=
  let low := a.toNat % 16
  let high := a.toNat / 16
  let fixLow : Nat := if h || decide (9 < low) then 6 else 0
  let fixHigh : Nat := if c || decide (9 < high) || (decide (8 < high) && decide (9 < low)) then 6 else 0
  BitVec.ofNat 8 (16 * fixHigh + fixLow)

/-- DAA: N, Z; V free; C set by the carry or left set (R237). -/
def decimalAdjust (t : State) : State :=
  let sum := addBits t.a (decimalCorrection t.a (t.flag .h) (t.flag .c)) false
  let c := t.flag .c || sum.c
  (((t.setA sum.r).setNZ sum.r).freeFlag .v).setFlag .c c

/-- MUL: the unsigned product of A and B into D; Z from its 16 bits, C from bit 7 (R238). -/
def multiply (t : State) : State :=
  let p : Word := BitVec.ofNat 16 (t.a.toNat * t.b.toNat)
  ((t.setD p).setFlag .z (p == 0)).setFlag .c (p.getLsbD 7)

/-! ## The instructions -/

/-- ASLA: arithmetic shift left A (R201). -/
def execAsla (t : State) : Result := .next (modifyAcc aslByte .a t)

/-- ASLB: arithmetic shift left B (R202). -/
def execAslb (t : State) : Result := .next (modifyAcc aslByte .b t)

/-- ASL: arithmetic shift left memory (R203). -/
def execAsl (m : Mem) (t : State) : Result := .next (modifyMem aslByte m t)

/-- ASRA: arithmetic shift right A (R204). -/
def execAsra (t : State) : Result := .next (modifyAcc asrByte .a t)

/-- ASRB: arithmetic shift right B (R205). -/
def execAsrb (t : State) : Result := .next (modifyAcc asrByte .b t)

/-- ASR: arithmetic shift right memory (R206). -/
def execAsr (m : Mem) (t : State) : Result := .next (modifyMem asrByte m t)

/-- CLRA: clear A (R207). -/
def execClra (t : State) : Result := .next (modifyAcc clrByte .a t)

/-- CLRB: clear B (R208). -/
def execClrb (t : State) : Result := .next (modifyAcc clrByte .b t)

/-- CLR: clear memory (R209). -/
def execClr (m : Mem) (t : State) : Result := .next (modifyMem clrByte m t)

/-- COMA: complement A (R210). -/
def execComa (t : State) : Result := .next (modifyAcc comByte .a t)

/-- COMB: complement B (R211). -/
def execComb (t : State) : Result := .next (modifyAcc comByte .b t)

/-- COM: complement memory (R212). -/
def execCom (m : Mem) (t : State) : Result := .next (modifyMem comByte m t)

/-- DECA: decrement A (R213). -/
def execDeca (t : State) : Result := .next (modifyAcc decByte .a t)

/-- DECB: decrement B (R214). -/
def execDecb (t : State) : Result := .next (modifyAcc decByte .b t)

/-- DEC: decrement memory (R215). -/
def execDec (m : Mem) (t : State) : Result := .next (modifyMem decByte m t)

/-- INCA: increment A (R216). -/
def execInca (t : State) : Result := .next (modifyAcc incByte .a t)

/-- INCB: increment B (R217). -/
def execIncb (t : State) : Result := .next (modifyAcc incByte .b t)

/-- INC: increment memory (R218). -/
def execInc (m : Mem) (t : State) : Result := .next (modifyMem incByte m t)

/-- LSLA: logical shift left (second name of ASL) A (R219). -/
def execLsla (t : State) : Result := .next (modifyAcc aslByte .a t)

/-- LSLB: logical shift left (second name of ASL) B (R220). -/
def execLslb (t : State) : Result := .next (modifyAcc aslByte .b t)

/-- LSL: logical shift left (second name of ASL) memory (R221). -/
def execLsl (m : Mem) (t : State) : Result := .next (modifyMem aslByte m t)

/-- LSRA: logical shift right A (R222). -/
def execLsra (t : State) : Result := .next (modifyAcc lsrByte .a t)

/-- LSRB: logical shift right B (R223). -/
def execLsrb (t : State) : Result := .next (modifyAcc lsrByte .b t)

/-- LSR: logical shift right memory (R224). -/
def execLsr (m : Mem) (t : State) : Result := .next (modifyMem lsrByte m t)

/-- NEGA: negate A (R225). -/
def execNega (t : State) : Result := .next (modifyAcc negByte .a t)

/-- NEGB: negate B (R226). -/
def execNegb (t : State) : Result := .next (modifyAcc negByte .b t)

/-- NEG: negate memory (R227). -/
def execNeg (m : Mem) (t : State) : Result := .next (modifyMem negByte m t)

/-- ROLA: rotate left through carry A (R228). -/
def execRola (t : State) : Result := .next (modifyAcc rolByte .a t)

/-- ROLB: rotate left through carry B (R229). -/
def execRolb (t : State) : Result := .next (modifyAcc rolByte .b t)

/-- ROL: rotate left through carry memory (R230). -/
def execRol (m : Mem) (t : State) : Result := .next (modifyMem rolByte m t)

/-- RORA: rotate right through carry A (R231). -/
def execRora (t : State) : Result := .next (modifyAcc rorByte .a t)

/-- RORB: rotate right through carry B (R232). -/
def execRorb (t : State) : Result := .next (modifyAcc rorByte .b t)

/-- ROR: rotate right through carry memory (R233). -/
def execRor (m : Mem) (t : State) : Result := .next (modifyMem rorByte m t)

/-- TSTA: test A (R234). -/
def execTsta (t : State) : Result := .next (testAcc .a t)

/-- TSTB: test B (R235). -/
def execTstb (t : State) : Result := .next (testAcc .b t)

/-- TST: test memory (R236). -/
def execTst (m : Mem) (t : State) : Result := .next (testMem m t)

/-- DAA: decimal addition adjust (R237). -/
def execDaa (t : State) : Result := .next (decimalAdjust t)

/-- MUL: multiply accumulators (R238). -/
def execMul (t : State) : Result := .next (multiply t)

end Sys2Proof.Machine
end

