-- ==== Sys2Proof/Machine/StackTransfer.lean ====
section
/-! DEFINITION. Push, pull, transfer and exchange (44_stack_transfer.md R290 to R298). -/

namespace Sys2Proof.Machine

/-! ## Shared operations -/

/-- One register of a list: the operation is done if the list's bit is set (R101, R290). -/
def whenListed (regs : Byte) (bit : Nat) (op : State → State) (t : State) : State :=
  if regs.getLsbD bit then op t else t

/-- The stack pointer that bit 6 of a list names: the one the instruction does not use (R101, R290). -/
def otherStack : Ptr → Ptr
  | .s => .u
  | .u => .s
  | .x => .x
  | .y => .y

/-- A push walks the list from bit 7 down to bit 0 (R291 to R293). -/
def pushList (p : Ptr) (regs : Byte) (t : State) : State :=
  let t := whenListed regs 7 (fun t => push16 p t.pc t) t
  let t := whenListed regs 6 (fun t => push16 p (t.ptr (otherStack p)) t) t
  let t := whenListed regs 5 (fun t => push16 p t.y t) t
  let t := whenListed regs 4 (fun t => push16 p t.x t) t
  let t := whenListed regs 3 (fun t => push8 p t.dp t) t
  let t := whenListed regs 2 (fun t => push8 p t.b t) t
  let t := whenListed regs 1 (fun t => push8 p t.a t) t
  whenListed regs 0 (fun t => push8 p t.cc t) t

/-- A pull walks the list from bit 0 up to bit 6; PC comes after it (R291, R294, R295). -/
def pullListed (p : Ptr) (regs : Byte) (t : State) : State :=
  let t := whenListed regs 0 (pullByteTo p State.setCc) t
  let t := whenListed regs 1 (pullByteTo p State.setA) t
  let t := whenListed regs 2 (pullByteTo p State.setB) t
  let t := whenListed regs 3 (pullByteTo p State.setDp) t
  let t := whenListed regs 4 (pullWordTo p State.setX) t
  let t := whenListed regs 5 (pullWordTo p State.setY) t
  whenListed regs 6 (pullWordTo p (fun t v => t.setPtr (otherStack p) v)) t

/-- Bit 7 of a pull: PC, always last (R294, R295). -/
def pullPc (p : Ptr) (regs : Byte) (t : State) : State :=
  whenListed regs 7 (pullWordTo p State.setPc) t

/-- `regread`: the value of a register by its code; an 8-bit register fills the low byte (R296; D30). -/
def readReg (r : Reg) (t : State) : Word :=
  match r with
  | .d => t.d
  | .x => t.x
  | .y => t.y
  | .u => t.u
  | .s => t.s
  | .pc => t.pc
  | .a => t.a.setWidth 16
  | .b => t.b.setWidth 16
  | .cc => t.cc.setWidth 16
  | .dp => t.dp.setWidth 16

/-- `regwrite`: a register by its code; an 8-bit register takes the low byte, and S arms NMI (R296, R421). -/
def writeReg (r : Reg) (v : Word) (t : State) : State :=
  match r with
  | .d => t.setD v
  | .x => t.setX v
  | .y => t.setY v
  | .u => t.setU v
  | .s => armNmi (t.setS v)
  | .pc => t.setPc v
  | .a => t.setA (lowByte v)
  | .b => t.setB (lowByte v)
  | .cc => t.setCc (lowByte v)
  | .dp => t.setDp (lowByte v)

/-! ## The instructions -/

/-- PSHS: push registers on the hardware stack (R292). -/
def execPshs (regs : Byte) (t : State) : Result := .next (pushList .s regs t)

/-- PSHU: push registers on the user stack (R293). -/
def execPshu (regs : Byte) (t : State) : Result := .next (pushList .u regs t)

/-- PULS: pull registers from the hardware stack (R294). -/
def execPuls (regs : Byte) (t : State) : Result := .next (pullPc .s regs (pullListed .s regs t))

/-- PULU: pull registers from the user stack; a pulled S arms NMI if `NMI_ARM_SET` says so (R295, R421; D18, D36). -/
def execPulu (regs : Byte) (t : State) : Result :=
  .next (pullPc .u regs (whenListed regs 6 (armNmiIf .puluS) (pullListed .u regs t)))

/-- TFR: the second register takes the value of the first; registers of two sizes are no instruction (R297, R110). -/
def execTfr (p q : Reg) (t : State) : Result :=
  if p.sameSize q then .next (writeReg q (readReg p t) t)
  else .fault (.illegalRegisterCode (pairByte p q))

/-- EXG: both registers are read, then each takes the other's value (R298, R110). -/
def execExg (p q : Reg) (t : State) : Result :=
  if p.sameSize q then .next (writeReg q (readReg p t) (writeReg p (readReg q t) t))
  else .fault (.illegalRegisterCode (pairByte p q))

end Sys2Proof.Machine
end

