-- ==== Sys2Proof/Machine/System.lean ====
section
/-! DEFINITION. The condition code register, jumps and subroutines, the software interrupts, the return from
interrupt and the two waits (46_system_misc.md R360 to R371). -/

namespace Sys2Proof.Machine

/-- ANDCC: logical AND immediate into the condition code register (R360). -/
def execAndcc (v : Byte) (t : State) : Result := .next (t.setCc (t.cc &&& v))

/-- ORCC: inclusive OR immediate into the condition code register (R361). -/
def execOrcc (v : Byte) (t : State) : Result := .next (t.setCc (t.cc ||| v))

/-- CWAI: clear condition-code bits and wait for interrupt (R362). -/
def execCwai (v : Byte) (t : State) : Result := .next ((pushFrame .entire (t.setCc (t.cc &&& v))).setRun .cwaiWaiting)

/-- NOP: no operation (R363). -/
def execNop (t : State) : Result := .next t

/-- JMP: jump to effective address (R364). -/
def execJmp (m : Mem) (t : State) : Result :=
  let ea := memEA m t
  .next (ea.2.setPc ea.1)

/-- JSR: jump to subroutine at effective address (R365). -/
def execJsr (m : Mem) (t : State) : Result :=
  let ea := memEA m t
  .next (callTo ea.1 ea.2)

/-- RTI: return from interrupt (R366). -/
def execRti (t : State) : Result := .next (returnFromException t)

/-- RTS: return from subroutine (R367). -/
def execRts (t : State) : Result := .next (pullWordTo .s State.setPc t)

/-- SWI: software interrupt (R368). -/
def execSwi (t : State) : Result := .next (takeException .entire true true vectorSwi t)

/-- SWI2: software interrupt 2 (R369). -/
def execSwi2 (t : State) : Result := .next (takeException .entire false false vectorSwi2 t)

/-- SWI3: software interrupt 3 (R370). -/
def execSwi3 (t : State) : Result := .next (takeException .entire false false vectorSwi3 t)

/-- SYNC: synchronize to external event (R371). -/
def execSync (t : State) : Result := .next (t.setRun .syncing)

end Sys2Proof.Machine
end

