-- ==== Sys2Proof/Machine/Word16.lean ====
section
/-! DEFINITION. The 16-bit instructions: arithmetic, compare, load, store, load effective address, ABX and SEX
(43_16bit_pointer.md R250 to R275). -/

namespace Sys2Proof.Machine

/-! ## Shared operations -/

/-- ADDD: N, Z, V, C; H kept (R250, R253). -/
def addWide (r : Wide) (o : Src16) (t : State) : State :=
  let m := operand16 o t
  let sum := addBits (m.2.wide r) m.1 false
  (m.2.setWide r sum.r).setNZVC sum.r sum.v sum.c

/-- SUBD: N, Z, V, C; H kept (R251, R254). -/
def subWide (r : Wide) (o : Src16) (t : State) : State :=
  let m := operand16 o t
  let diff := subBits (m.2.wide r) m.1 false
  (m.2.setWide r diff.r).setNZVC diff.r diff.v diff.c

/-- The 16-bit compares: the flags of the subtraction, the difference discarded (R251, R255 to R259). -/
def cmpWide (r : Wide) (o : Src16) (t : State) : State :=
  let m := operand16 o t
  let diff := subBits (m.2.wide r) m.1 false
  m.2.setNZVC diff.r diff.v diff.c

/-- The 16-bit loads: N, Z, V (R252, R260 to R264). -/
def loadWide (r : Wide) (o : Src16) (t : State) : State :=
  let m := operand16 o t
  (m.2.setWide r m.1).setLogic m.1

/-- The 16-bit stores: the register to the effective address, high byte first; N, Z, V from the register (R252, R265 to
R269; D37). -/
def storeWide (r : Wide) (m : Mem) (t : State) : State :=
  let ea := memEA m t
  let v := ea.2.wide r
  (writeWord ea.1 v ea.2).setLogic v

/-- LEAS and LEAU: the effective address into the register, no flag (R272, R273). -/
def loadAddress (p : Ptr) (i : Indexed) (t : State) : State :=
  let ea := indexedEA i t
  ea.2.setPtr p ea.1

/-- LEAX and LEAY: as `loadAddress`, and Z from the address (R270, R271). -/
def loadAddressZ (p : Ptr) (i : Indexed) (t : State) : State :=
  let ea := indexedEA i t
  (ea.2.setPtr p ea.1).setFlag .z (ea.1 == 0)

/-- ABX: B added unsigned into X, no flag (R274). -/
def addBToX (t : State) : State := t.setX (t.x + t.b.setWidth 16)

/-- SEX: A becomes the sign of B; N, Z from D (R275; D14). -/
def signExtendB (t : State) : State :=
  let t := t.setA (if t.b.msb then 0xFF else 0x00)
  t.setNZ t.d

/-! ## The instructions -/

/-- ADDD: add memory into D (R253). -/
def execAddd (o : Src16) (t : State) : Result := .next (addWide .d o t)

/-- SUBD: subtract memory from D (R254). -/
def execSubd (o : Src16) (t : State) : Result := .next (subWide .d o t)

/-- CMPD: compare memory from D (R255). -/
def execCmpd (o : Src16) (t : State) : Result := .next (cmpWide .d o t)

/-- CMPX: compare memory from X (R256). -/
def execCmpx (o : Src16) (t : State) : Result := .next (cmpWide (.ptr .x) o t)

/-- CMPY: compare memory from Y (R257). -/
def execCmpy (o : Src16) (t : State) : Result := .next (cmpWide (.ptr .y) o t)

/-- CMPU: compare memory from U (R258). -/
def execCmpu (o : Src16) (t : State) : Result := .next (cmpWide (.ptr .u) o t)

/-- CMPS: compare memory from S (R259). -/
def execCmps (o : Src16) (t : State) : Result := .next (cmpWide (.ptr .s) o t)

/-- LDD: load D from memory (R260). -/
def execLdd (o : Src16) (t : State) : Result := .next (loadWide .d o t)

/-- LDX: load X from memory (R261). -/
def execLdx (o : Src16) (t : State) : Result := .next (loadWide (.ptr .x) o t)

/-- LDY: load Y from memory (R262). -/
def execLdy (o : Src16) (t : State) : Result := .next (loadWide (.ptr .y) o t)

/-- LDU: load U from memory (R263). -/
def execLdu (o : Src16) (t : State) : Result := .next (loadWide (.ptr .u) o t)

/-- LDS: load S from memory (R264). -/
def execLds (o : Src16) (t : State) : Result := .next (armNmi (loadWide (.ptr .s) o t))

/-- STD: store D into memory (R265). -/
def execStd (m : Mem) (t : State) : Result := .next (storeWide .d m t)

/-- STX: store X into memory (R266). -/
def execStx (m : Mem) (t : State) : Result := .next (storeWide (.ptr .x) m t)

/-- STY: store Y into memory (R267). -/
def execSty (m : Mem) (t : State) : Result := .next (storeWide (.ptr .y) m t)

/-- STU: store U into memory (R268). -/
def execStu (m : Mem) (t : State) : Result := .next (storeWide (.ptr .u) m t)

/-- STS: store S into memory (R269). -/
def execSts (m : Mem) (t : State) : Result := .next (storeWide (.ptr .s) m t)

/-- LEAX: load effective address into X (R270). -/
def execLeax (i : Indexed) (t : State) : Result := .next (loadAddressZ .x i t)

/-- LEAY: load effective address into Y (R271). -/
def execLeay (i : Indexed) (t : State) : Result := .next (loadAddressZ .y i t)

/-- LEAS: load effective address into S (R272). -/
def execLeas (i : Indexed) (t : State) : Result := .next (armNmiIf .leas (loadAddress .s i t))

/-- LEAU: load effective address into U (R273). -/
def execLeau (i : Indexed) (t : State) : Result := .next (loadAddress .u i t)

/-- ABX: add B into X (R274). -/
def execAbx (t : State) : Result := .next (addBToX t)

/-- SEX: sign extend B into A (R275). -/
def execSex (t : State) : Result := .next (signExtendB t)

end Sys2Proof.Machine
end

