-- ==== Sys2Proof/Machine/Fetch.lean ====
section
/-! DEFINITION. Fetching an instruction: exactly its bytes, one at a time in increasing address order, each with the
read of the machine (00_scope.md R8, 30_encoding.md R111, 20_memory.md R62, R77). -/

namespace Sys2Proof.Machine

/-- `fetch8()`: the byte at PC, and PC one further modulo 2^16 (R8). -/
def fetchByte (t : State) : Byte × State :=
  let v := readByte t.pc t
  (v.1, v.2.setPc (t.pc + 1))

/-- The model fault of bytes that are no instruction (60_exceptions.md R402). -/
def faultOf : DecodeError → Fault
  | .illegalOpcode bytes => .illegalOpcode bytes
  | .illegalPostbyte pb => .illegalPostbyte pb
  | .illegalRegisterCode pb => .illegalRegisterCode pb

/-- Fetch bytes until the decoder has an instruction or refuses (R111). The first argument bounds how many are still
fetched. -/
def fetchFrom : Nat → List Byte → State → Except Fault (Instr × State)
  | 0, bytes, _ => .error (.illegalOpcode bytes)
  | n + 1, bytes, t =>
    let v := fetchByte t
    match decode (bytes ++ [v.1]) with
    | .more => fetchFrom n (bytes ++ [v.1]) v.2
    | .done i _ => .ok (i, v.2)
    | .illegal e => .error (faultOf e)

/-- Decode at PC (R111): the instruction, with PC at the first byte after it. -/
def fetch (t : State) : Except Fault (Instr × State) := fetchFrom maxLength [] t

end Sys2Proof.Machine
end

