-- ==== Sys2Proof/Machine/Interrupts.lean ====
section
/-! DEFINITION. The pins at a boundary, the recognition and priority of interrupts, their entries, and the two waits
(60_exceptions.md R403 to R422). -/

namespace Sys2Proof.Machine

/-- The pin sample of this step; the schedule moves on (10_state.md R44; log entry 10). -/
def samplePins (t : State) : Pins × State :=
  match t.pins with
  | [] => (Pins.inactive, t)
  | p :: later => (p, t.setPins later)

/-- An NMI edge sets the pending latch in every run state (R403, R422). -/
def latchNmi (p : Pins) (t : State) : State := t.setNmiPending (t.nmiPending || p.nmiEdge)

/-- The requests that can be recognised (R407). -/
inductive Request
  | nmi | firq | irq
  deriving DecidableEq, Repr

/-- `nmi_req` (R407). -/
def nmiRequested (t : State) : Bool := t.nmiPending && t.nmiArmed

/-- `firq_req` (R407). -/
def firqRequested (p : Pins) (t : State) : Bool := p.firq && !t.flag .f

/-- `irq_req` (R407). -/
def irqRequested (p : Pins) (t : State) : Bool := p.irq && !t.flag .i

/-- The request taken at a boundary: NMI before FIRQ before IRQ (R408; D17). -/
def recognised (p : Pins) (t : State) : Option Request :=
  if nmiRequested t then some .nmi
  else if firqRequested p t then some .firq
  else if irqRequested p t then some .irq
  else none

/-- The entry of a request: `Enter_NMI`, `Enter_FIRQ`, `Enter_IRQ` (R410 to R412). -/
def enterInterrupt (q : Request) (t : State) : State :=
  match q with
  | .nmi => takeException .entire true true vectorNmi (t.setNmiPending false)
  | .firq => takeException .subset true true vectorFirq t
  | .irq => takeException .entire true false vectorIrq t

/-- The entry of a request out of CWAI, which pushes nothing and leaves E as it is (R417; D21). -/
def enterFromCwai (q : Request) (t : State) : State :=
  match q with
  | .nmi => takeException .stacked true true vectorNmi ((t.setNmiPending false).setRun .running)
  | .firq => takeException .stacked true true vectorFirq (t.setRun .running)
  | .irq => takeException .stacked true false vectorIrq (t.setRun .running)

/-- What ends a SYNC: an armed pending NMI, or a low FIRQ or IRQ line whatever its mask (R418; D22). -/
def endsSync (p : Pins) (t : State) : Bool := nmiRequested t || p.firq || p.irq

/-- A boundary at which HALT is low: Running becomes Halted, the waits are kept (R419, 00_scope.md R11; D23). -/
def haltBoundary (t : State) : State :=
  match t.run with
  | .running => t.setRun .halted
  | .syncing | .cwaiWaiting | .halted => t

end Sys2Proof.Machine
end

