-- ==== Sys2Proof/Machine/Boundary.lean ====
section
/-! DEFINITION. One step of the machine in the order of 00_scope.md R11, and the placing of an instruction where the
next step fetches it. -/

namespace Sys2Proof.Machine

/-- Decode at PC and execute (R11 case 6, R111). -/
def executeNext (t : State) : Result :=
  match fetch t with
  | .ok (i, t) => exec i t
  | .error f => .fault f

/-- A recognised interrupt is entered; otherwise one instruction is executed (R11 cases 5 and 6). -/
def runBoundary (p : Pins) (t : State) : Result :=
  match recognised p t with
  | some q => .next (enterInterrupt q t)
  | none => executeNext t

/-- A boundary of a SYNC wait (R11 case 3, 60_exceptions.md R418). -/
def syncBoundary (p : Pins) (t : State) : Result :=
  if endsSync p t then
    if p.syncShort then executeNext (t.setRun .running) else runBoundary p (t.setRun .running)
  else .next t

/-- A boundary of a CWAI wait (R11 case 4, R417). -/
def cwaiBoundary (p : Pins) (t : State) : Result :=
  match recognised p t with
  | some q => .next (enterFromCwai q t)
  | none => .next t

/-- The state that a step works on: the record of bus cycles is begun, the other bus master has had its turn and the NMI
edge is latched (R44, R74, R403). -/
def openBoundary (t : State) : Pins × State :=
  let s := samplePins t
  (s.1, latchNmi s.1 (agentTurn (s.2.setBus [])))

/-- The step with the pins of its boundary (R11). -/
def stepWithPins (p : Pins) (t : State) : Result :=
  if p.reset then .next (resetSequence t)
  else if p.halt then .next (haltBoundary t)
  else
    match t.run with
    | .running => runBoundary p t
    | .halted => runBoundary p (t.setRun .running)
    | .syncing => syncBoundary p t
    | .cwaiWaiting => cwaiBoundary p t

/-- One step (R11). -/
def boundaryStep (t : State) : Result :=
  let s := openBoundary t
  stepWithPins s.1 s.2

/-! ## Placing an instruction -/

/-- The bytes from an address up, modulo 2^16. -/
def pokeBytes (addr : Word) : List Byte → State → State
  | [], t => t
  | v :: rest, t => pokeBytes (addr + 1) rest (t.poke addr v)

/-- Can a byte that is placed at the address be fetched from it? -/
def holdsBytes (t : State) (addr : Word) : Bool :=
  match t.kindAt addr with
  | .ram | .rom => true
  | .device | .absent => false

/-- The addresses from `addr` up, modulo 2^16. -/
def addressesFrom (addr : Word) : Nat → List Word
  | 0 => []
  | n + 1 => addr :: addressesFrom (addr + 1) n

/-- The platform with plain memory at the addresses, if it has not got it there already. -/
def withMemoryAt (addrs : List Word) (t : State) : State :=
  if addrs.all (holdsBytes t) then t
  else t.setPlatform (addrs.map (fun a => { first := a, last := a, kind := .ram }) ++ t.platform)

/-- The pins with the next sample inactive. -/
def quietPins : List Pins → List Pins
  | [] => []
  | _ :: later => Pins.inactive :: later

/-- The bytes stored at PC, and everything set so that the next step fetches and runs them: no pin, no recognised NMI,
no other bus master, the run state Running (log entry 4). -/
def placeInstruction (bytes : List Byte) (t : State) : State :=
  let t := pokeBytes t.pc bytes (withMemoryAt (addressesFrom t.pc bytes.length) t)
  let t := t.setNmiPending (t.nmiPending && !t.nmiArmed)
  ((t.setPins (quietPins t.pins)).setAgent []).setRun .running

end Sys2Proof.Machine
end

