-- ==== Sys2Proof/Machine/Step.lean ====
section
/-! DEFINITION. The step of the machine (00_scope.md R11), and the placing of an opcode-table word where it fetches. -/

namespace Sys2Proof.Machine

/-- One step: a reset sequence, a halted boundary, a boundary of a wait, an interrupt entry, or one instruction (R11). -/
def step (s : State) : Host.Outcome State Fault Refusal := boundaryStep s

/-- The state with an opcode-table word stored where `step` fetches its next instruction, the bits above `nbits` zero up
to the longest instruction. -/
def State.withFetchWord (s : State) (nbits w : Nat) : State := placeInstruction (tableWordBytes nbits w) s

end Sys2Proof.Machine
end

