-- ==== Sys2Proof/Machine/Timing.lean ====
section
/-! DEFINITION. Timing and bus status as data that no meaning reads: the outputs R/W, BA, BS and the address of each cycle
on the record of the bus, BA and BS of each run state (10_state.md R44, 60_exceptions.md R431), and the cycle counts of
70_reset_and_hazards.md R474, R475 and 40_addressing_modes.md R154. -/

namespace Sys2Proof.Machine

/-! ## Bus status -/

/-- The MPU state that the outputs BA and BS show (R44). -/
inductive BusStatus
  | normal | interruptAcknowledge | syncAcknowledge | haltOrBusGrant
  deriving DecidableEq, Repr

/-- The outputs BA and BS of a status (R44). -/
def BusStatus.pins : BusStatus → Bool × Bool
  | .normal => (false, false)
  | .interruptAcknowledge => (false, true)
  | .syncAcknowledge => (true, false)
  | .haltOrBusGrant => (true, true)

/-- The status in a cycle that the record of the bus holds (R431): an acknowledging read is one of the two of a vector
fetch, reset's included; a grant is a grant whatever the run state. -/
def BusCycle.status : BusCycle → BusStatus
  | .read _ _ | .write _ _ => .normal
  | .acknowledge _ _ => .interruptAcknowledge
  | .grant => .haltOrBusGrant

/-- The output R/W of a cycle, 1 for a read and 0 for a write (R44); none where the MPU does not drive it, the buses
being given away (R74, R431). -/
def BusCycle.readWrite : BusCycle → Option Bool
  | .read _ _ | .acknowledge _ _ => some true
  | .write _ _ => some false
  | .grant => none

/-- The outputs A0 to A15 of a cycle, where the MPU drives them (R431). -/
def BusCycle.address : BusCycle → Option Word
  | .read addr _ | .write addr _ | .acknowledge addr _ => some addr
  | .grant => none

/-- What the MPU outputs in a cycle: the address, R/W, and BA with BS. -/
structure BusOutputs where
  address : Option Word
  readWrite : Option Bool
  baBs : Bool × Bool
  deriving DecidableEq, Repr

/-- The outputs of a cycle on the record. -/
def BusCycle.outputs (c : BusCycle) : BusOutputs :=
  { address := c.address, readWrite := c.readWrite, baBs := c.status.pins }

/-- The outputs of a cycle in which a running MPU does not use the bus, a VMA cycle: no transfer, so no entry of the
record (20_memory.md R79, R431; D7). -/
def vmaOutputs : BusOutputs :=
  { address := some 0xFFFF, readWrite := some true, baBs := BusStatus.normal.pins }

/-- BA and BS by run state, in the cycles that are not on the record (R431). In a CWAI wait BA is 0 and BS is not stated:
free. -/
def RunState.busPins : RunState → Bool × Bool
  | .running => BusStatus.normal.pins
  | .syncing => BusStatus.syncAcknowledge.pins
  | .cwaiWaiting => (false, Config.cwaiBusStatusBS)
  | .halted => BusStatus.haltOrBusGrant.pins

/-! ## Cycle counts -/

/-- A cycle count as the source prints it (R474). -/
inductive Cycles
  | exactly (n : Nat)
  /-- `5(6)`: not taken, taken. -/
  | byTaken (notTaken taken : Nat)
  /-- `6/15`: the pulled E clear, set. -/
  | byEntire (subset entire : Nat)
  /-- `>= 2`. -/
  | atLeast (n : Nat)
  deriving DecidableEq, Repr

/-- The three more cycles of an indirect form (R150, R154). -/
def plusIndirect (n : Nat) (ind : Bool) : Nat := if ind then n + 3 else n

/-- The extra cycles of an indexed form (R154). -/
def indexedCycles : Indexed → Nat
  | .off5 _ _ => 1
  | .inc1 _ => 2
  | .inc2 _ ind => plusIndirect 3 ind
  | .dec1 _ => 2
  | .dec2 _ ind => plusIndirect 3 ind
  | .noOff _ ind => plusIndirect 0 ind
  | .accB _ ind => plusIndirect 1 ind
  | .accA _ ind => plusIndirect 1 ind
  | .accD _ ind => plusIndirect 4 ind
  | .off8 _ _ ind => plusIndirect 1 ind
  | .off16 _ _ ind => plusIndirect 4 ind
  | .pcr8 _ _ ind => plusIndirect 1 ind
  | .pcr16 _ _ ind => plusIndirect 5 ind
  | .extInd _ => 5

/-- The bytes a register list moves (44_stack_transfer.md R299). -/
def listBytes (regs : Byte) : Nat :=
  (regs.getLsbD 0).toNat + (regs.getLsbD 1).toNat + (regs.getLsbD 2).toNat + (regs.getLsbD 3).toNat
    + 2 * ((regs.getLsbD 4).toNat + (regs.getLsbD 5).toNat + (regs.getLsbD 6).toNat + (regs.getLsbD 7).toNat)

/-- The count of an 8-bit operand's form (R475). -/
def src8Cycles (imm dir idx ext : Nat) : Src8 → Nat
  | .imm _ => imm
  | .dir _ => dir
  | .idx i => idx + indexedCycles i
  | .ext _ => ext

/-- The count of a 16-bit operand's form (R475). -/
def src16Cycles (imm dir idx ext : Nat) : Src16 → Nat
  | .imm _ => imm
  | .dir _ => dir
  | .idx i => idx + indexedCycles i
  | .ext _ => ext

/-- The count of a memory operand's form (R475). -/
def memCycles (dir idx ext : Nat) : Mem → Nat
  | .dir _ => dir
  | .idx i => idx + indexedCycles i
  | .ext _ => ext

/-- The cycles of an instruction (R475, opcode_table.json). -/
def instrCycles : Instr → Cycles
  | .adca o => .exactly (src8Cycles 2 4 4 5 o)
  | .adcb o => .exactly (src8Cycles 2 4 4 5 o)
  | .adda o => .exactly (src8Cycles 2 4 4 5 o)
  | .addb o => .exactly (src8Cycles 2 4 4 5 o)
  | .anda o => .exactly (src8Cycles 2 4 4 5 o)
  | .andb o => .exactly (src8Cycles 2 4 4 5 o)
  | .bita o => .exactly (src8Cycles 2 4 4 5 o)
  | .bitb o => .exactly (src8Cycles 2 4 4 5 o)
  | .cmpa o => .exactly (src8Cycles 2 4 4 5 o)
  | .cmpb o => .exactly (src8Cycles 2 4 4 5 o)
  | .eora o => .exactly (src8Cycles 2 4 4 5 o)
  | .eorb o => .exactly (src8Cycles 2 4 4 5 o)
  | .lda o => .exactly (src8Cycles 2 4 4 5 o)
  | .ldb o => .exactly (src8Cycles 2 4 4 5 o)
  | .ora o => .exactly (src8Cycles 2 4 4 5 o)
  | .orb o => .exactly (src8Cycles 2 4 4 5 o)
  | .sbca o => .exactly (src8Cycles 2 4 4 5 o)
  | .sbcb o => .exactly (src8Cycles 2 4 4 5 o)
  | .sta m => .exactly (memCycles 4 4 5 m)
  | .stb m => .exactly (memCycles 4 4 5 m)
  | .suba o => .exactly (src8Cycles 2 4 4 5 o)
  | .subb o => .exactly (src8Cycles 2 4 4 5 o)
  | .asla => .exactly 2
  | .aslb => .exactly 2
  | .asl m => .exactly (memCycles 6 6 7 m)
  | .asra => .exactly 2
  | .asrb => .exactly 2
  | .asr m => .exactly (memCycles 6 6 7 m)
  | .clra => .exactly 2
  | .clrb => .exactly 2
  | .clr m => .exactly (memCycles 6 6 7 m)
  | .coma => .exactly 2
  | .comb => .exactly 2
  | .com m => .exactly (memCycles 6 6 7 m)
  | .deca => .exactly 2
  | .decb => .exactly 2
  | .dec m => .exactly (memCycles 6 6 7 m)
  | .inca => .exactly 2
  | .incb => .exactly 2
  | .inc m => .exactly (memCycles 6 6 7 m)
  | .lsla => .exactly 2
  | .lslb => .exactly 2
  | .lsl m => .exactly (memCycles 6 6 7 m)
  | .lsra => .exactly 2
  | .lsrb => .exactly 2
  | .lsr m => .exactly (memCycles 6 6 7 m)
  | .nega => .exactly 2
  | .negb => .exactly 2
  | .neg m => .exactly (memCycles 6 6 7 m)
  | .rola => .exactly 2
  | .rolb => .exactly 2
  | .rol m => .exactly (memCycles 6 6 7 m)
  | .rora => .exactly 2
  | .rorb => .exactly 2
  | .ror m => .exactly (memCycles 6 6 7 m)
  | .tsta => .exactly 2
  | .tstb => .exactly 2
  | .tst m => .exactly (memCycles 6 6 7 m)
  | .daa => .exactly 2
  | .mul => .exactly 11
  | .addd o => .exactly (src16Cycles 4 6 6 7 o)
  | .subd o => .exactly (src16Cycles 4 6 6 7 o)
  | .cmpd o => .exactly (src16Cycles 5 7 7 8 o)
  | .cmpx o => .exactly (src16Cycles 4 6 6 7 o)
  | .cmpy o => .exactly (src16Cycles 5 7 7 8 o)
  | .cmpu o => .exactly (src16Cycles 5 7 7 8 o)
  | .cmps o => .exactly (src16Cycles 5 7 7 8 o)
  | .ldd o => .exactly (src16Cycles 3 5 5 6 o)
  | .ldx o => .exactly (src16Cycles 3 5 5 6 o)
  | .ldy o => .exactly (src16Cycles 4 6 6 7 o)
  | .ldu o => .exactly (src16Cycles 3 5 5 6 o)
  | .lds o => .exactly (src16Cycles 4 6 6 7 o)
  | .std m => .exactly (memCycles 5 5 6 m)
  | .stx m => .exactly (memCycles 5 5 6 m)
  | .sty m => .exactly (memCycles 6 6 7 m)
  | .stu m => .exactly (memCycles 5 5 6 m)
  | .sts m => .exactly (memCycles 6 6 7 m)
  | .leax i => .exactly (4 + indexedCycles i)
  | .leay i => .exactly (4 + indexedCycles i)
  | .leas i => .exactly (4 + indexedCycles i)
  | .leau i => .exactly (4 + indexedCycles i)
  | .abx => .exactly 3
  | .sex => .exactly 2
  | .pshs v => .exactly (5 + listBytes v)
  | .pshu v => .exactly (5 + listBytes v)
  | .puls v => .exactly (5 + listBytes v)
  | .pulu v => .exactly (5 + listBytes v)
  | .tfr _ _ => .exactly 6
  | .exg _ _ => .exactly 8
  | .bra _ => .exactly 3
  | .brn _ => .exactly 3
  | .bhi _ => .exactly 3
  | .bls _ => .exactly 3
  | .bcc _ => .exactly 3
  | .bhs _ => .exactly 3
  | .bcs _ => .exactly 3
  | .blo _ => .exactly 3
  | .bne _ => .exactly 3
  | .beq _ => .exactly 3
  | .bvc _ => .exactly 3
  | .bvs _ => .exactly 3
  | .bpl _ => .exactly 3
  | .bmi _ => .exactly 3
  | .bge _ => .exactly 3
  | .blt _ => .exactly 3
  | .bgt _ => .exactly 3
  | .ble _ => .exactly 3
  | .lbra _ => .exactly 5
  | .lbrn _ => .exactly 5
  | .lbhi _ => .byTaken 5 6
  | .lbls _ => .byTaken 5 6
  | .lbcc _ => .byTaken 5 6
  | .lbhs _ => .byTaken 5 6
  | .lbcs _ => .byTaken 5 6
  | .lblo _ => .byTaken 5 6
  | .lbne _ => .byTaken 5 6
  | .lbeq _ => .byTaken 5 6
  | .lbvc _ => .byTaken 5 6
  | .lbvs _ => .byTaken 5 6
  | .lbpl _ => .byTaken 5 6
  | .lbmi _ => .byTaken 5 6
  | .lbge _ => .byTaken 5 6
  | .lblt _ => .byTaken 5 6
  | .lbgt _ => .byTaken 5 6
  | .lble _ => .byTaken 5 6
  | .bsr _ => .exactly 7
  | .lbsr _ => .exactly 9
  | .andcc _ => .exactly 3
  | .orcc _ => .exactly 3
  | .cwai _ => .exactly 20
  | .nop => .exactly 2
  | .jmp m => .exactly (memCycles 3 3 4 m)
  | .jsr m => .exactly (memCycles 7 7 8 m)
  | .rti => .byEntire 6 15
  | .rts => .exactly 5
  | .swi => .exactly 19
  | .swi2 => .exactly 20
  | .swi3 => .exactly 20
  | .sync => .atLeast 2

end Sys2Proof.Machine
end

