-- ==== Sys2Proof/Safety.lean ====
section
/-! DEFINITION. The terms in which claims about the machine are stated: what a run is free of, what an instruction may
touch, and what the spec's tables say a result is. Nothing here is used by the machine. -/

namespace Sys2Proof.Machine

/-! ## Safe runs -/

/-- The step goes on: no model fault, no refusal (60_exceptions.md R401, R402). -/
def StepsOn (t : State) : Prop := ∃ t', step t = .next t'

/-- A run of `n` steps that never stops. -/
def RunsOn : Nat → State → Prop
  | 0, _ => True
  | n + 1, t => ∃ t', step t = .next t' ∧ RunsOn n t'

/-- The outcome is a next state with this property. -/
def Completes (r : Result) (post : State → Prop) : Prop := ∃ t', r = .next t' ∧ post t'

/-- The invariant of every reachable state: memory has its canonical form. -/
def Canonical (t : State) : Prop := Memory.wf t.mem = true

/-! ## Memory as a claim sees it -/

/-- No other bus master is at work (20_memory.md R74). -/
def Quiet (t : State) : Prop := t.agent = []

/-- The address holds plain memory, so that a read has no other effect (R69). -/
def Plain (t : State) (addr : Word) : Prop := t.kindAt addr = .ram ∨ t.kindAt addr = .rom

/-- The address holds RAM (R69). -/
def Ram (t : State) (addr : Word) : Prop := t.kindAt addr = .ram

/-- The 16-bit value that plain memory holds at an address, high byte first (R61). -/
def State.peekWord (t : State) (addr : Word) : Word := joinBytes (t.peek addr) (t.peek (addr + 1))

/-- The bytes of plain memory from an address up. -/
def State.peekBytes (t : State) (addr : Word) (n : Nat) : List Byte :=
  (List.range n).map (fun k => t.peek (addr + BitVec.ofNat 16 k))

/-- The `n` addresses below an address. -/
def below (addr : Word) (n : Nat) : List Word := (List.range n).map (fun k => addr - BitVec.ofNat 16 (k + 1))

/-- The `n` addresses from an address up. -/
def upFrom (addr : Word) (n : Nat) : List Word := (List.range n).map (fun k => addr + BitVec.ofNat 16 k)

/-- The byte at an address after a store of `v` to it: RAM takes it, nothing else does (R69). -/
def storedByte (t : State) (addr : Word) (v : Byte) : Byte := if t.kindAt addr = .ram then v else t.peek addr

/-! ## What an instruction touches -/

/-- The places outside memory that are not flags: registers, latches and the run state (10_state.md R20). -/
inductive Loc
  | a | b | dp | x | y | u | s | pc | nmiArmed | nmiPending | run
  deriving DecidableEq, Repr

/-- The run states, numbered. -/
def RunState.number : RunState → Nat
  | .running => 0
  | .syncing => 1
  | .cwaiWaiting => 2
  | .halted => 3

/-- What a place holds, as a number. -/
def State.look (t : State) : Loc → Nat
  | .a => t.a.toNat
  | .b => t.b.toNat
  | .dp => t.dp.toNat
  | .x => t.x.toNat
  | .y => t.y.toNat
  | .u => t.u.toNat
  | .s => t.s.toNat
  | .pc => t.pc.toNat
  | .nmiArmed => t.nmiArmed.toNat
  | .nmiPending => t.nmiPending.toNat
  | .run => t.run.number

/-- From `t` to `t'` nothing is changed but the places, the flags and, where no other bus master is at work, the bytes
of memory listed. -/
def Touches (locs : List Loc) (flags : List Flag) (stores : List Word) (t t' : State) : Prop :=
  (∀ l, l ∉ locs → t'.look l = t.look l) ∧
  (∀ k, k ∉ flags → t'.flag k = t.flag k) ∧
  t'.platform = t.platform ∧ t'.pins = t.pins ∧
  (Quiet t → Quiet t' ∧ ∀ addr, addr ∉ stores → t'.peek addr = t.peek addr)

/-- All eight flags. -/
def allFlags : List Flag := [.c, .v, .z, .n, .i, .h, .f, .e]

/-- The place of an accumulator. -/
def Acc.loc : Acc → Loc
  | .a => .a
  | .b => .b

/-- The place of a pointer register. -/
def ptrLoc : Ptr → Loc
  | .x => .x
  | .y => .y
  | .u => .u
  | .s => .s

/-- The places of a 16-bit register. -/
def Wide.locs : Wide → List Loc
  | .d => [.a, .b]
  | .ptr p => [ptrLoc p]

/-- The pointer register that an indexed form also writes: the auto-increment and auto-decrement forms
(40_addressing_modes.md R138 to R141). -/
def indexedWrites : Indexed → List Loc
  | .inc1 r => [ptrLoc r]
  | .inc2 r _ => [ptrLoc r]
  | .dec1 r => [ptrLoc r]
  | .dec2 r _ => [ptrLoc r]
  | _ => []

/-- The pointer register an 8-bit operand form also writes. -/
def src8Writes : Src8 → List Loc
  | .idx i => indexedWrites i
  | _ => []

/-- The pointer register a 16-bit operand form also writes. -/
def src16Writes : Src16 → List Loc
  | .idx i => indexedWrites i
  | _ => []

/-- The pointer register a memory operand form also writes. -/
def memWrites : Mem → List Loc
  | .idx i => indexedWrites i
  | _ => []

/-- After an instruction the pointer register that an indexed form also writes holds what the address phase left in it,
unless the instruction writes it too: the places `dest` (40_addressing_modes.md R138 to R141, R155). -/
def IndexedLeaves (dest : List Loc) (i : Indexed) (t t' : State) : Prop :=
  ∀ r, ptrLoc r ∈ indexedWrites i → ptrLoc r ∉ dest → t'.ptr r = (indexedEA i t).2.ptr r

/-- The same of an 8-bit operand form. -/
def Src8Leaves (o : Src8) (t t' : State) : Prop :=
  match o with
  | .idx i => IndexedLeaves [] i t t'
  | _ => True

/-- The same of a 16-bit operand form. -/
def Src16Leaves (dest : List Loc) (o : Src16) (t t' : State) : Prop :=
  match o with
  | .idx i => IndexedLeaves dest i t t'
  | _ => True

/-- The same of a memory operand form. -/
def MemLeaves (dest : List Loc) (m : Mem) (t t' : State) : Prop :=
  match m with
  | .idx i => IndexedLeaves dest i t t'
  | _ => True

/-! ## What an instruction moves over the bus (20_memory.md R66, R69) -/

/-- A cycle in which the MPU moves a byte. -/
def BusCycle.isTransfer : BusCycle → Bool
  | .read _ _ | .write _ _ | .acknowledge _ _ => true
  | .grant => false

/-- The transfers of the MPU on the record of the bus, in order. -/
def State.transfers (t : State) : List BusCycle := t.bus.filter BusCycle.isTransfer

/-- What a device at the address sees of a cycle (R69). -/
def deviceEvent (t : State) : BusCycle → Option IoEvent
  | .read addr v | .acknowledge addr v => if t.kindAt addr = .device then some (.read addr v) else none
  | .write addr v => if t.kindAt addr = .device then some (.write addr v) else none
  | .grant => none

/-- From `t` to `t'` the MPU makes exactly these transfers, in this order, and the devices see those at their addresses,
and no others. -/
def Moves (cs : List BusCycle) (t t' : State) : Prop :=
  t'.transfers = t.transfers ++ cs ∧ t'.io = t.io ++ cs.filterMap (deviceEvent t)

/-- The two reads of a word, the high byte first (R66). -/
def wordReads (addr v : Word) : List BusCycle := [.read addr (highByte v), .read (addr + 1) (lowByte v)]

/-- The two writes of a word. -/
def wordWrites (addr v : Word) : List BusCycle := [.write addr (highByte v), .write (addr + 1) (lowByte v)]

/-- The two reads of a vector fetch (60_exceptions.md R414). -/
def vectorReads (v w : Word) : List BusCycle := [.acknowledge v (highByte w), .acknowledge (v + 1) (lowByte w)]

/-- The reads of the bytes of an instruction, from an address up (20_memory.md R62). -/
def fetchReads (addr : Word) : List Byte → List BusCycle
  | [] => []
  | v :: rest => .read addr v :: fetchReads (addr + 1) rest

/-- A memory operand as an 8-bit source operand. -/
def memAsSrc8 : Mem → Src8
  | .dir lo => .dir lo
  | .idx i => .idx i
  | .ext addr => .ext addr

/-- A memory operand as a 16-bit source operand. -/
def memAsSrc16 : Mem → Src16
  | .dir lo => .dir lo
  | .idx i => .idx i
  | .ext addr => .ext addr

/-- The instructions that read one byte at the effective address and write none (R66). -/
def byteReaders (m : Mem) : List Instr :=
  let o := memAsSrc8 m
  [.adca o, .adcb o, .adda o, .addb o, .anda o, .andb o, .bita o, .bitb o, .cmpa o, .cmpb o, .eora o, .eorb o, .lda o,
    .ldb o, .ora o, .orb o, .sbca o, .sbcb o, .suba o, .subb o, .tst m]

/-- The instructions that read two bytes at the effective address. -/
def wordReaders (m : Mem) : List Instr :=
  let o := memAsSrc16 m
  [.addd o, .subd o, .cmpd o, .cmpx o, .cmpy o, .cmpu o, .cmps o, .ldd o, .ldx o, .ldy o, .ldu o, .lds o]

/-- The instructions that write an accumulator at the effective address. -/
def byteStores (m : Mem) : List (Acc × Instr) := [(.a, .sta m), (.b, .stb m)]

/-- The instructions that write a 16-bit register at the effective address. -/
def wordStores (m : Mem) : List (Wide × Instr) :=
  [(.d, .std m), (.ptr .x, .stx m), (.ptr .y, .sty m), (.ptr .u, .stu m), (.ptr .s, .sts m)]

/-- What plain RAM holds after a batch of another master's writes: the last one to an address counts (R74). -/
def afterBatch (batch : List AgentWrite) (t : State) (addr : Word) : Byte :=
  match batch.reverse.find? (fun w => w.1 == addr) with
  | some w => w.2
  | none => t.peek addr

/-! ## Flags of a result -/

/-- N and Z of a result (10_state.md R32, R33): its most significant bit, and whether it is zero. -/
def SignAndZero {w : Nat} (r : BitVec w) (t' : State) : Prop :=
  t'.flag .n = r.getMsbD 0 ∧ t'.flag .z = decide (r.toNat = 0)

/-- A value lies outside the two's complement range of `w` bits. -/
def OutOfRange (w : Nat) (v : Int) : Prop := v < -(2 ^ (w - 1) : Nat) ∨ (2 ^ (w - 1) : Nat) ≤ v

/-! ## The read-modify-write table (42_shift_rmw_8bit.md R201 to R233, R240) -/

/-- The ten operations on one byte. -/
inductive ByteOp
  | asl | asr | clr | com | dec | inc | lsr | neg | rol | ror
  deriving DecidableEq, Repr

/-- The result as a number, from the operand and the old carry. -/
def ByteOp.value (op : ByteOp) (m : Byte) (c : Bool) : Nat :=
  match op with
  | .asl => 2 * m.toNat % 256
  | .asr => m.toNat / 2 + (if 128 ≤ m.toNat then 128 else 0)
  | .clr => 0
  | .com => 255 - m.toNat
  | .dec => (m.toNat + 255) % 256
  | .inc => (m.toNat + 1) % 256
  | .lsr => m.toNat / 2
  | .neg => (256 - m.toNat) % 256
  | .rol => 2 * m.toNat % 256 + c.toNat
  | .ror => m.toNat / 2 + 128 * c.toNat

/-- The V column of R240: the value written, or none where V is kept. -/
def ByteOp.overflow (op : ByteOp) (m : Byte) : Option Bool :=
  match op with
  | .asl | .rol => some (m.getLsbD 7 ^^ m.getLsbD 6)
  | .clr | .com => some false
  | .dec | .neg => some (decide (m.toNat = 128))
  | .inc => some (decide (m.toNat = 127))
  | .asr | .lsr | .ror => none

/-- The C column of R240: the value written, or none where C is kept. -/
def ByteOp.carry (op : ByteOp) (m : Byte) : Option Bool :=
  match op with
  | .asl | .rol => some (m.getLsbD 7)
  | .asr | .lsr | .ror => some (m.getLsbD 0)
  | .clr => some false
  | .com => some true
  | .neg => some (decide (m.toNat ≠ 0))
  | .dec | .inc => none

/-- The flags an operation writes (R240); H is among them where R240 leaves it `any()`. -/
def ByteOp.flags : ByteOp → List Flag
  | .asl | .neg => [.h, .n, .z, .v, .c]
  | .asr => [.h, .n, .z, .c]
  | .clr | .com | .rol => [.n, .z, .v, .c]
  | .dec | .inc => [.n, .z, .v]
  | .lsr | .ror => [.n, .z, .c]

/-- The instructions that do the operation on an accumulator. -/
def ByteOp.accInstrs : ByteOp → Acc → List Instr
  | .asl, .a => [.asla, .lsla]
  | .asl, .b => [.aslb, .lslb]
  | .asr, .a => [.asra]
  | .asr, .b => [.asrb]
  | .clr, .a => [.clra]
  | .clr, .b => [.clrb]
  | .com, .a => [.coma]
  | .com, .b => [.comb]
  | .dec, .a => [.deca]
  | .dec, .b => [.decb]
  | .inc, .a => [.inca]
  | .inc, .b => [.incb]
  | .lsr, .a => [.lsra]
  | .lsr, .b => [.lsrb]
  | .neg, .a => [.nega]
  | .neg, .b => [.negb]
  | .rol, .a => [.rola]
  | .rol, .b => [.rolb]
  | .ror, .a => [.rora]
  | .ror, .b => [.rorb]

/-- The instructions that do the operation on a byte of memory. -/
def ByteOp.memInstrs (op : ByteOp) (m : Mem) : List Instr :=
  match op with
  | .asl => [.asl m, .lsl m]
  | .asr => [.asr m]
  | .clr => [.clr m]
  | .com => [.com m]
  | .dec => [.dec m]
  | .inc => [.inc m]
  | .lsr => [.lsr m]
  | .neg => [.neg m]
  | .rol => [.rol m]
  | .ror => [.ror m]

/-- The byte an operation leaves and the flags it writes, in a state whose carry was `t`'s. -/
def ByteEffect (op : ByteOp) (m r : Byte) (t t' : State) : Prop :=
  r.toNat = op.value m (t.flag .c) ∧ SignAndZero r t' ∧
  t'.flag .v = (op.overflow m).getD (t.flag .v) ∧
  t'.flag .c = (op.carry m).getD (t.flag .c)

/-! ## Branch conditions (45_branch.md R310) -/

/-- `cond(c)` by its code 0 to 15, as R310 writes it. -/
def branchTaken (code : Nat) (n z v c : Bool) : Bool :=
  match code with
  | 0 => true
  | 1 => false
  | 2 => (c || z) == false
  | 3 => (c || z) == true
  | 4 => c == false
  | 5 => c == true
  | 6 => z == false
  | 7 => z == true
  | 8 => v == false
  | 9 => v == true
  | 10 => n == false
  | 11 => n == true
  | 12 => (n ^^ v) == false
  | 13 => (n ^^ v) == true
  | 14 => (z || (n ^^ v)) == false
  | 15 => (z || (n ^^ v)) == true
  | _ => false

/-- The short branches of a code. -/
def shortBranches (code : Nat) (off : Byte) : List Instr :=
  match code with
  | 0 => [.bra off]
  | 1 => [.brn off]
  | 2 => [.bhi off]
  | 3 => [.bls off]
  | 4 => [.bcc off, .bhs off]
  | 5 => [.bcs off, .blo off]
  | 6 => [.bne off]
  | 7 => [.beq off]
  | 8 => [.bvc off]
  | 9 => [.bvs off]
  | 10 => [.bpl off]
  | 11 => [.bmi off]
  | 12 => [.bge off]
  | 13 => [.blt off]
  | 14 => [.bgt off]
  | 15 => [.ble off]
  | _ => []

/-- The long branches of a code. -/
def longBranches (code : Nat) (off : Word) : List Instr :=
  match code with
  | 0 => [.lbra off]
  | 1 => [.lbrn off]
  | 2 => [.lbhi off]
  | 3 => [.lbls off]
  | 4 => [.lbcc off, .lbhs off]
  | 5 => [.lbcs off, .lblo off]
  | 6 => [.lbne off]
  | 7 => [.lbeq off]
  | 8 => [.lbvc off]
  | 9 => [.lbvs off]
  | 10 => [.lbpl off]
  | 11 => [.lbmi off]
  | 12 => [.lbge off]
  | 13 => [.lblt off]
  | 14 => [.lbgt off]
  | 15 => [.lble off]
  | _ => []

/-! ## Stack images (10_state.md R47, 44_stack_transfer.md R291) -/

/-- The bytes if the list names the register. -/
def ifListed (regs : Byte) (bit : Nat) (bytes : List Byte) : List Byte := if regs.getLsbD bit then bytes else []

/-- The bytes of the listed registers from the final value of the pointer upward (R291): CC, A, B, DP, X, Y, the other
stack pointer, PC. -/
def listImage (p : Ptr) (regs : Byte) (t : State) : List Byte :=
  ifListed regs 0 [t.cc] ++ ifListed regs 1 [t.a] ++ ifListed regs 2 [t.b] ++ ifListed regs 3 [t.dp] ++
  ifListed regs 4 (wordBytes t.x) ++ ifListed regs 5 (wordBytes t.y) ++
  ifListed regs 6 (wordBytes (t.ptr (otherStack p))) ++ ifListed regs 7 (wordBytes t.pc)

/-- The twelve bytes of the entire state (R47), with the CC byte given. -/
def entireImage (cc : Byte) (t : State) : List Byte :=
  [cc, t.a, t.b, t.dp] ++ wordBytes t.x ++ wordBytes t.y ++ wordBytes t.u ++ wordBytes t.pc

/-- A push of the image through pointer `p` from `t` to `t'`: the pointer is lower by its length; and where no other
bus master is at work and the stack lies in RAM, the bytes stand in memory from the new pointer upward (R81, R291). -/
def Pushed (p : Ptr) (image : List Byte) (t t' : State) : Prop :=
  t'.ptr p = t.ptr p - BitVec.ofNat 16 image.length ∧
  (Quiet t → Canonical t → (∀ addr ∈ below (t.ptr p) image.length, Ram t addr) →
    t'.peekBytes (t'.ptr p) image.length = image)

/-- PC is loaded from a vector as the last thing done, by `MemRead(v, 2)` (R70, R414); its two reads are the last
transfers, and acknowledge (10_state.md R44, 60_exceptions.md R431; the record they stand on is log entry 35); and it
is the word that memory holds there after the entry, where no other bus master is at work and the vector lies in plain
memory. -/
def AtVector (v : Word) (t t' : State) : Prop :=
  (∃ u, t' = loadVector v u) ∧ (∃ cs, t'.transfers = cs ++ vectorReads v t'.pc) ∧
  (Quiet t → Plain t v → Plain t (v + 1) → t'.pc = t'.peekWord v)

/-- The places that the registers of a list occupy. -/
def listLocs (p : Ptr) (regs : Byte) : List Loc :=
  (if regs.getLsbD 1 then [Loc.a] else []) ++ (if regs.getLsbD 2 then [Loc.b] else []) ++
  (if regs.getLsbD 3 then [Loc.dp] else []) ++ (if regs.getLsbD 4 then [Loc.x] else []) ++
  (if regs.getLsbD 5 then [Loc.y] else []) ++ (if regs.getLsbD 6 then [ptrLoc (otherStack p)] else []) ++
  (if regs.getLsbD 7 then [Loc.pc] else [])

/-- The bytes a list moves: one for each of bits 0 to 3, two for each of bits 4 to 7 (R299). -/
def listCount (regs : Byte) : Nat :=
  (regs.getLsbD 0).toNat + (regs.getLsbD 1).toNat + (regs.getLsbD 2).toNat + (regs.getLsbD 3).toNat +
  2 * ((regs.getLsbD 4).toNat + (regs.getLsbD 5).toNat + (regs.getLsbD 6).toNat + (regs.getLsbD 7).toNat)

/-! ## Registers of TFR and EXG (44_stack_transfer.md R296) -/

/-- The value of a register as a number. -/
def regNumber (r : Reg) (t : State) : Nat :=
  match r with
  | .d => 256 * t.a.toNat + t.b.toNat
  | .x => t.x.toNat
  | .y => t.y.toNat
  | .u => t.u.toNat
  | .s => t.s.toNat
  | .pc => t.pc.toNat
  | .a => t.a.toNat
  | .b => t.b.toNat
  | .cc => t.cc.toNat
  | .dp => t.dp.toNat

/-- The places a write to a register changes; a write to S also arms NMI. -/
def regLocs : Reg → List Loc
  | .d => [.a, .b]
  | .x => [.x]
  | .y => [.y]
  | .u => [.u]
  | .s => [.s, .nmiArmed]
  | .pc => [.pc]
  | .a => [.a]
  | .b => [.b]
  | .cc => []
  | .dp => [.dp]

/-- The flags a write to a register changes. -/
def regFlags : Reg → List Flag
  | .cc => allFlags
  | _ => []

end Sys2Proof.Machine
end

