-- ==== Sys2Proof/Certificates/Slice0/Obligations.lean ====
section
/-! DEFINITION. The statements about the machine, in the terms of Sys2Proof/Safety.lean. -/

open Sys2Proof Sys2Proof.Machine

/-! ## Reset, memory and decoding -/

/-- The state after power-on reset holds what 10_state.md R45 gives: F and I set, DP zero, NMI blocked and not
pending, the run state Running, PC the word at the reset vector. The pending latch clear at power-on is the spec's
decision D15 (log entry 25); an empty memory that is all RAM is the model's choice (log entries 3, 4, 5). -/
def Obligations.reset_state_values : Prop :=
  State.reset.flag .f = true ∧ State.reset.flag .i = true ∧ State.reset.dp = 0x00 ∧
  State.reset.nmiArmed = false ∧ State.reset.nmiPending = false ∧ State.reset.run = .running ∧
  State.reset.pc = State.reset.peekWord 0xFFFE

/-- The memory of the reset state has its canonical form. The form, and what an unlisted byte reads as, are the
model's choice (log entry 3). -/
def Obligations.reset_memory_canonical : Prop := Canonical State.reset

/-- Every step keeps the canonical form of memory, from every state that has it. The form is the model's choice (log
entry 3). -/
def Obligations.step_keeps_memory_canonical : Prop :=
  ∀ t t' : State, Canonical t → step t = .next t' → Canonical t'

/-- For RAM a read returns the byte last written, and every other address reads as before (00_scope.md R7,
20_memory.md R69, R73). The map of regions is the model's (log entry 5). -/
def Obligations.read_returns_last_write : Prop :=
  ∀ (t : State) (addr : Word) (v : Byte), Quiet t → Canonical t → Ram t addr →
    (readByte addr (writeByte addr v t)).1 = v ∧
    ∀ b, b ≠ addr → Plain t b → (readByte b (writeByte addr v t)).1 = (readByte b t).1

/-- A 16-bit store to RAM leaves bits 15 to 8 at the address and bits 7 to 0 at the next, modulo 2^16, and reads back
as the word (20_memory.md R61, R63, R65). The wrap is decision D3 (log entry 19). -/
def Obligations.word_store_is_big_endian : Prop :=
  ∀ (t : State) (addr v : Word), Quiet t → Canonical t → Ram t addr → Ram t (addr + 1) →
    let t' := writeWord addr v t
    (t'.peek addr).toNat = v.toNat / 256 ∧ (t'.peek (addr + 1)).toNat = v.toNat % 256 ∧
    (readWord addr t').1 = v ∧ ∀ b, b ≠ addr → b ≠ addr + 1 → t'.peek b = t.peek b

/-- Decoding the bytes of a well-formed instruction gives it back, whatever bytes follow; an alias comes back as the
instruction it names (30_encoding.md R90 to R101, R124). The term of an alias, and the kept RR bits, are the model's
choice (log entries 15, 17). -/
def Obligations.decode_of_encode : Prop :=
  ∀ (i : Instr) (rest : List Byte), i.wellFormed = true → decode (encode i ++ rest) = .done i.canonical rest

/-- The decoder answers an instruction only for exactly that instruction's bytes, and only a well-formed one that is
no alias: every bit of an encoding counts (R111, R112). The aliases and the kept RR bits are the model's choice (log
entries 15, 17). -/
def Obligations.decoded_bytes_are_the_encoding : Prop :=
  ∀ (bytes rest : List Byte) (i : Instr), decode bytes = .done i rest →
    bytes = encode i ++ rest ∧ i.wellFormed = true ∧ i.canonical = i

/-- A few words written out from the spec's encodings decode to the instructions they stand for: one of each format
and page. -/
def Obligations.sample_words_decode : Prop :=
  decode [0x12] = .done .nop [] ∧
  decode [0x86, 0x20] = .done (.lda (.imm 0x20)) [] ∧
  decode [0x8E, 0xF0, 0x00] = .done (.ldx (.imm 0xF000)) [] ∧
  decode [0x96, 0x4B] = .done (.lda (.dir 0x4B)) [] ∧
  decode [0xB6, 0x43, 0xA0] = .done (.lda (.ext 0x43A0)) [] ∧
  decode [0x10, 0xAE, 0x89, 0x12, 0x34] = .done (.ldy (.idx (.off16 .x 0x1234 false))) [] ∧
  decode [0xA6, 0x9F, 0xC2, 0x00] = .done (.lda (.idx (.extInd 0xC200))) [] ∧
  decode [0x20, 0xFE] = .done (.bra 0xFE) [] ∧
  decode [0x10, 0x27, 0x01, 0x00] = .done (.lbeq 0x0100) [] ∧
  decode [0x1E, 0x89] = .done (.exg .a .b) [] ∧
  decode [0x36, 0x70] = .done (.pshu 0x70) [] ∧
  decode [0x11, 0x3F] = .done .swi3 []

/-- The 33 first bytes that are no instruction and open no page are those R107 lists; after the page byte $10 every
second byte is no instruction but the 38 of R105, and after $11 every one but the 9 of R106, so that a doubled page
byte and a byte that is an opcode of page 1 only are illegal too (R108). A page byte alone asks for the second byte.
The fault is decisions D8 and D9 (log entry 12). -/
def Obligations.unused_opcodes_are_illegal : Prop :=
  (∀ (b : Byte) (rest : List Byte),
    decode (b :: rest) = .illegal (.illegalOpcode [b]) ↔
      b.toNat ∈ [0x01, 0x02, 0x05, 0x0B, 0x14, 0x15, 0x18, 0x1B, 0x38, 0x3E, 0x41, 0x42, 0x45, 0x4B, 0x4E, 0x51, 0x52,
        0x55, 0x5B, 0x5E, 0x61, 0x62, 0x65, 0x6B, 0x71, 0x72, 0x75, 0x7B, 0x87, 0x8F, 0xC7, 0xCD, 0xCF]) ∧
  (∀ (b : Byte) (rest : List Byte),
    decode (0x10 :: b :: rest) = .illegal (.illegalOpcode [0x10, b]) ↔
      b.toNat ∉ [0x21, 0x22, 0x23, 0x24, 0x25, 0x26, 0x27, 0x28, 0x29, 0x2A, 0x2B, 0x2C, 0x2D, 0x2E, 0x2F, 0x3F, 0x83,
        0x8C, 0x8E, 0x93, 0x9C, 0x9E, 0x9F, 0xA3, 0xAC, 0xAE, 0xAF, 0xB3, 0xBC, 0xBE, 0xBF, 0xCE, 0xDE, 0xDF, 0xEE, 0xEF,
        0xFE, 0xFF]) ∧
  (∀ (b : Byte) (rest : List Byte),
    decode (0x11 :: b :: rest) = .illegal (.illegalOpcode [0x11, b]) ↔
      b.toNat ∉ [0x3F, 0x83, 0x8C, 0x93, 0x9C, 0xA3, 0xAC, 0xB3, 0xBC]) ∧
  decode [0x10] = .more ∧ decode [0x11] = .more

/-- The undefined indexed postbytes are the 39 of R109: for LDA indexed, and for every other indexed opcode through
the same form, such a postbyte is illegal before any further byte is looked at, and no other postbyte is. The fault is
decision D10 (log entry 12). -/
def Obligations.undefined_postbytes_are_illegal : Prop :=
  ∀ (pb : Byte) (rest : List Byte) (k : Indexed → Instr),
    takeIndexed k (pb :: rest) = .illegal (.illegalPostbyte pb) ↔
      pb.toNat ∈ [0x87, 0x8A, 0x8E, 0x97, 0x9A, 0x9E, 0xA7, 0xAA, 0xAE, 0xB7, 0xBA, 0xBE, 0xC7, 0xCA, 0xCE, 0xD7, 0xDA,
        0xDE, 0xE7, 0xEA, 0xEE, 0xF7, 0xFA, 0xFE, 0x8F, 0xAF, 0xCF, 0xEF, 0xBF, 0xDF, 0xFF, 0x90, 0xB0, 0xD0, 0xF0,
        0x92, 0xB2, 0xD2, 0xF2]

/-- A step runs the instruction that the bytes at PC decode to: from a running state in whose pin sample RESET and HALT
are not asserted and no interrupt is recognised, that is, no armed NMI is pending or arriving, FIRQ is high or F is
set, and IRQ is high or I is set. So a masked line is not entered (60 R406, R407). With no other bus master and those
bytes in plain memory, the step is `exec` of the instruction in the state whose PC is past them, whose pin schedule has
moved on, whose NMI latch has taken the edge, and whose record of the bus holds the reads of those bytes, each once and
in rising order. The pins, the other master, the order of the fetches, the lack of other cycles (decision D7) and the
record are log entries 10, 11, 18, 27 and 35. -/
def Obligations.step_runs_decoded_instruction : Prop :=
  ∀ (t : State) (n : Nat) (i : Instr),
    let p := t.pins.headD Pins.inactive
    t.run = .running → p.reset = false → p.halt = false → Quiet t →
    ((t.nmiPending || p.nmiEdge) && t.nmiArmed) = false → (p.firq && !t.flag .f) = false →
    (p.irq && !t.flag .i) = false → (∀ addr ∈ upFrom t.pc n, Plain t addr) →
    decode (t.peekBytes t.pc n) = .done i [] → n ≤ maxLength →
    step t = exec i ((((t.setPins t.pins.tail).setNmiPending (t.nmiPending || p.nmiEdge)).setBus
      (fetchReads t.pc (t.peekBytes t.pc n))).setPc (t.pc + BitVec.ofNat 16 n))

/-- A step faults, by name, where the bytes at PC begin no instruction (60_exceptions.md R402): from a running state
in whose pin sample RESET and HALT are not asserted and no interrupt is recognised, masked lines among them, with no
other bus master and those bytes in plain memory. The faults are decisions D8 to D11 (log entry 12). -/
def Obligations.step_faults_on_illegal_bytes : Prop :=
  ∀ (t : State) (n : Nat) (e : DecodeError),
    let p := t.pins.headD Pins.inactive
    t.run = .running → p.reset = false → p.halt = false → Quiet t →
    ((t.nmiPending || p.nmiEdge) && t.nmiArmed) = false → (p.firq && !t.flag .f) = false →
    (p.irq && !t.flag .i) = false → (∀ addr ∈ upFrom t.pc n, Plain t addr) →
    decode (t.peekBytes t.pc n) = .illegal e → n ≤ maxLength →
    step t = .fault (faultOf e)

/-- Every defined instruction runs to completion in every state (60_exceptions.md R401). -/
def Obligations.every_instruction_completes : Prop :=
  ∀ (i : Instr) (t : State), i.wellFormed = true → ∃ t', exec i t = .next t'

/-! ## Operands -/

/-- The address each indexed form computes before indirection, with offsets read as two's complement numbers and the
sum taken modulo 2^16 (40_addressing_modes.md R137 to R149, R151). The wrap and the PC read are decisions D3 and D30
(log entries 19, 28). -/
def Obligations.indexed_address_is_signed_sum : Prop :=
  ∀ (t : State) (r : Ptr) (ind : Bool),
    (∀ n : BitVec 5, ((indexedBase (.off5 r n) t).toNat : Int) = ((t.ptr r).toNat + n.toInt) % 65536) ∧
    (∀ n : Byte, ((indexedBase (.off8 r n ind) t).toNat : Int) = ((t.ptr r).toNat + n.toInt) % 65536) ∧
    (∀ n : Word, ((indexedBase (.off16 r n ind) t).toNat : Int) = ((t.ptr r).toNat + n.toInt) % 65536) ∧
    ((indexedBase (.accA r ind) t).toNat : Int) = ((t.ptr r).toNat + t.a.toInt) % 65536 ∧
    ((indexedBase (.accB r ind) t).toNat : Int) = ((t.ptr r).toNat + t.b.toInt) % 65536 ∧
    (indexedBase (.accD r ind) t).toNat = ((t.ptr r).toNat + (256 * t.a.toNat + t.b.toNat)) % 65536 ∧
    (∀ (rr : BitVec 2) (n : Byte), ((indexedBase (.pcr8 rr n ind) t).toNat : Int) = (t.pc.toNat + n.toInt) % 65536) ∧
    (∀ (rr : BitVec 2) (n : Word), ((indexedBase (.pcr16 rr n ind) t).toNat : Int) = (t.pc.toNat + n.toInt) % 65536) ∧
    (indexedBase (.inc1 r) t = t.ptr r ∧ indexedBase (.inc2 r ind) t = t.ptr r ∧ indexedBase (.noOff r ind) t = t.ptr r) ∧
    ((indexedBase (.dec1 r) t).toNat : Int) = ((t.ptr r).toNat - 1) % 65536 ∧
    ((indexedBase (.dec2 r ind) t).toNat : Int) = ((t.ptr r).toNat - 2) % 65536 ∧
    ∀ addr : Word, indexedBase (.extInd addr) t = addr

/-- The auto-increment and auto-decrement forms change their pointer register by one or two modulo 2^16, the decrement
before and the increment after the address is taken; the indexed calculation changes nothing else, no flag among them
(R136, R138 to R141). The order in forms that use one register twice is log entry 20. -/
def Obligations.indexed_address_updates_pointer : Prop :=
  (∀ (t : State) (r : Ptr) (ind : Bool),
    ((indexedEA (.inc1 r) t).2.ptr r).toNat = ((t.ptr r).toNat + 1) % 65536 ∧
    ((indexedEA (.inc2 r ind) t).2.ptr r).toNat = ((t.ptr r).toNat + 2) % 65536 ∧
    ((indexedEA (.dec1 r) t).2.ptr r).toNat = ((t.ptr r).toNat + 65535) % 65536 ∧
    ((indexedEA (.dec2 r ind) t).2.ptr r).toNat = ((t.ptr r).toNat + 65534) % 65536) ∧
  ∀ (i : Indexed) (t : State), Touches (indexedWrites i) [] [] t (indexedEA i t).2

/-- What an operand form reads (40 R132 to R134, R150, R151, R157): the immediate itself; the byte or word at DP:lo8,
at the extended address, at the indexed effective address; and that address is the computed one, or with indirection
the word that plain memory holds there, high byte first. The regions and the wrap are log entries 5 and 19. -/
def Obligations.operands_read_their_address : Prop :=
  ∀ t : State, Quiet t →
    (∀ v, operand8 (.imm v) t = (v, t)) ∧ (∀ v, operand16 (.imm v) t = (v, t)) ∧
    (∀ (lo : Byte) (ea : Word), ea.toNat = 256 * t.dp.toNat + lo.toNat → Plain t ea →
      (operand8 (.dir lo) t).1 = t.peek ea ∧ (memEA (.dir lo) t).1 = ea ∧
      (Plain t (ea + 1) → (operand16 (.dir lo) t).1 = t.peekWord ea)) ∧
    (∀ ea : Word, Plain t ea →
      (operand8 (.ext ea) t).1 = t.peek ea ∧ (memEA (.ext ea) t).1 = ea ∧
      (Plain t (ea + 1) → (operand16 (.ext ea) t).1 = t.peekWord ea)) ∧
    (∀ i : Indexed, Plain t (indexedEA i t).1 →
      (operand8 (.idx i) t).1 = t.peek (indexedEA i t).1 ∧ (memEA (.idx i) t).1 = (indexedEA i t).1 ∧
      (Plain t ((indexedEA i t).1 + 1) → (operand16 (.idx i) t).1 = t.peekWord (indexedEA i t).1)) ∧
    (∀ i : Indexed, indexedIndirect i = false → (indexedEA i t).1 = indexedBase i t) ∧
    (∀ i : Indexed, indexedIndirect i = true → Plain t (indexedBase i t) → Plain t (indexedBase i t + 1) →
      (indexedEA i t).1 = t.peekWord (indexedBase i t))

/-! ## 8-bit accumulator and memory -/

/-- `add8` (41 R170): the 9-bit sum, the carries out of bits 7 and 3, and the signed overflow, which is also the carry
out of bit 7 against the carry out of bit 6. -/
def Obligations.add8_sum_and_flags : Prop :=
  ∀ (a b : Byte) (cin : Bool),
    let sum := a.toNat + b.toNat + cin.toNat
    (addBits a b cin).r.toNat = sum % 256 ∧
    ((addBits a b cin).c = true ↔ 256 ≤ sum) ∧
    (halfCarry a b cin = true ↔ 16 ≤ a.toNat % 16 + b.toNat % 16 + cin.toNat) ∧
    ((addBits a b cin).v = true ↔
      a.getLsbD 7 = b.getLsbD 7 ∧ (addBits a b cin).r.getLsbD 7 ≠ a.getLsbD 7) ∧
    ((addBits a b cin).v = true ↔ OutOfRange 8 (a.toInt + b.toInt + cin.toNat)) ∧
    (addBits a b cin).v = ((addBits a b cin).c ^^ decide (128 ≤ a.toNat % 128 + b.toNat % 128 + cin.toNat))

/-- The effect of ADC and ADD on their accumulator, with the carry that enters. -/
def AddsInto (r : Acc) (cin : Bool) (o : Src8) (t t' : State) : Prop :=
  let m := (operand8 o t).1
  (t'.acc r).toNat = ((t.acc r).toNat + m.toNat + cin.toNat) % 256 ∧
  t'.flag .h = decide (16 ≤ (t.acc r).toNat % 16 + m.toNat % 16 + cin.toNat) ∧
  SignAndZero (t'.acc r) t' ∧
  (t'.flag .v = true ↔ OutOfRange 8 ((t.acc r).toInt + m.toInt + cin.toNat)) ∧
  t'.flag .c = decide (256 ≤ (t.acc r).toNat + m.toNat + cin.toNat) ∧
  Src8Leaves o t t' ∧ Touches (r.loc :: src8Writes o) [.h, .n, .z, .v, .c] [] t t'

/-- ADCA, ADCB, ADDA and ADDB complete with the sum, the flags H, N, Z, V, C and nothing else (R174 to R177). The
pointer register of an auto-increment or auto-decrement operand ends as the address phase leaves it. -/
def Obligations.add_accumulator_result : Prop :=
  ∀ (o : Src8) (t : State),
    Completes (exec (.adca o) t) (AddsInto .a (t.flag .c) o t) ∧
    Completes (exec (.adcb o) t) (AddsInto .b (t.flag .c) o t) ∧
    Completes (exec (.adda o) t) (AddsInto .a false o t) ∧
    Completes (exec (.addb o) t) (AddsInto .b false o t)

/-- The flags of an 8-bit difference: N and Z from it, V by the signed range, C the borrow. -/
def DifferenceFlags (x m : Byte) (bin : Bool) (d : Byte) (t' : State) : Prop :=
  (d.toNat : Int) = ((x.toNat : Int) - m.toNat - bin.toNat) % 256 ∧ SignAndZero d t' ∧
  (t'.flag .v = true ↔ OutOfRange 8 (x.toInt - m.toInt - bin.toNat)) ∧
  t'.flag .c = decide (x.toNat < m.toNat + bin.toNat)

/-- The effect of SBC and SUB on their accumulator, with the borrow that enters; H may take any value. -/
def SubtractsFrom (r : Acc) (bin : Bool) (o : Src8) (t t' : State) : Prop :=
  DifferenceFlags (t.acc r) (operand8 o t).1 bin (t'.acc r) t' ∧
  Src8Leaves o t t' ∧ Touches (r.loc :: src8Writes o) [.h, .n, .z, .v, .c] [] t t'

/-- SBCA, SBCB, SUBA and SUBB complete with the difference, CMPA and CMPB with no register written; all six with the
flags N, Z, V, C of the difference, any H, and nothing else changed (R182, R183, R190, R191, R194, R195). The H left
free is log entry 8. The pointer register of an auto-increment or auto-decrement operand ends as the address phase
leaves it. -/
def Obligations.subtract_and_compare_accumulator : Prop :=
  ∀ (o : Src8) (t : State),
    Completes (exec (.sbca o) t) (SubtractsFrom .a (t.flag .c) o t) ∧
    Completes (exec (.sbcb o) t) (SubtractsFrom .b (t.flag .c) o t) ∧
    Completes (exec (.suba o) t) (SubtractsFrom .a false o t) ∧
    Completes (exec (.subb o) t) (SubtractsFrom .b false o t) ∧
    ∀ ri ∈ [(Acc.a, Instr.cmpa o), (.b, .cmpb o)], Completes (exec ri.2 t) (fun t' =>
      (∃ d, DifferenceFlags (t.acc ri.1) (operand8 o t).1 false d t') ∧
      Src8Leaves o t t' ∧ Touches (src8Writes o) [.h, .n, .z, .v, .c] [] t t')

/-- The three bitwise operations on two bytes, bit by bit. -/
def BitwiseResult (op : Bool → Bool → Bool) (x m r : Byte) : Prop :=
  ∀ k, k < 8 → r.getLsbD k = op (x.getLsbD k) (m.getLsbD k)

/-- The effect of AND, EOR and OR. -/
def CombinesInto (op : Bool → Bool → Bool) (r : Acc) (o : Src8) (t t' : State) : Prop :=
  BitwiseResult op (t.acc r) (operand8 o t).1 (t'.acc r) ∧ SignAndZero (t'.acc r) t' ∧ t'.flag .v = false ∧
  Src8Leaves o t t' ∧ Touches (r.loc :: src8Writes o) [.n, .z, .v] [] t t'

/-- ANDA, ANDB, EORA, EORB, ORA and ORB complete with the bitwise result in the accumulator, BITA and BITB with that
of AND discarded; all with N and Z from it, V clear, H and C kept, and nothing else changed (R178 to R181, R184, R185,
R188, R189). The pointer register of an auto-increment or auto-decrement operand ends as the address phase leaves it.
-/
def Obligations.logic_and_bit_test_result : Prop :=
  ∀ (o : Src8) (t : State),
    Completes (exec (.anda o) t) (CombinesInto (· && ·) .a o t) ∧
    Completes (exec (.andb o) t) (CombinesInto (· && ·) .b o t) ∧
    Completes (exec (.eora o) t) (CombinesInto (· ^^ ·) .a o t) ∧
    Completes (exec (.eorb o) t) (CombinesInto (· ^^ ·) .b o t) ∧
    Completes (exec (.ora o) t) (CombinesInto (· || ·) .a o t) ∧
    Completes (exec (.orb o) t) (CombinesInto (· || ·) .b o t) ∧
    ∀ ri ∈ [(Acc.a, Instr.bita o), (.b, .bitb o)], Completes (exec ri.2 t) (fun t' =>
      (∃ d, BitwiseResult (· && ·) (t.acc ri.1) (operand8 o t).1 d ∧ SignAndZero d t') ∧ t'.flag .v = false ∧
      Src8Leaves o t t' ∧ Touches (src8Writes o) [.n, .z, .v] [] t t')

/-- LDA and LDB complete with the operand in the accumulator; STA and STB with the accumulator stored at the effective
address (where RAM is) and no other byte changed; N and Z from the value, V clear (R186, R187, R192, R193). The flags
of a store are decision D37 (log entry 29). The pointer register of an auto-increment or auto-decrement operand ends
as the address phase leaves it. -/
def Obligations.load_and_store_accumulator : Prop :=
  (∀ (o : Src8) (t : State), ∀ ri ∈ [(Acc.a, Instr.lda o), (.b, .ldb o)],
    Completes (exec ri.2 t) (fun t' =>
      t'.acc ri.1 = (operand8 o t).1 ∧ SignAndZero (operand8 o t).1 t' ∧ t'.flag .v = false ∧
      Src8Leaves o t t' ∧ Touches (ri.1.loc :: src8Writes o) [.n, .z, .v] [] t t')) ∧
  ∀ (m : Mem) (t : State), ∀ ri ∈ [(Acc.a, Instr.sta m), (.b, .stb m)],
    Completes (exec ri.2 t) (fun t' =>
      (Quiet t → Canonical t → t'.peek (memEA m t).1 = storedByte t (memEA m t).1 (t.acc ri.1)) ∧
      SignAndZero (t.acc ri.1) t' ∧ t'.flag .v = false ∧
      MemLeaves [] m t t' ∧ Touches (memWrites m) [.n, .z, .v] [(memEA m t).1] t t')

/-! ## Read-modify-write, DAA and MUL -/

/-- The accumulator forms of ASL, LSL, ASR, CLR, COM, DEC, INC, LSR, NEG, ROL and ROR complete with the result and the
flags of R240, any H where it says so, and nothing else (R201 to R233). The H left free is log entry 8. -/
def Obligations.modify_accumulator_result : Prop :=
  ∀ (op : ByteOp) (r : Acc) (i : Instr) (t : State), i ∈ op.accInstrs r →
    Completes (exec i t) (fun t' =>
      ByteEffect op (t.acc r) (t'.acc r) t t' ∧ Touches [r.loc] op.flags [] t t')

/-- The memory forms of the same operations complete with the byte at the effective address (where RAM is) replaced by
the result, the flags of R240, and no other byte changed (R200 to R233). The H left free is log entry 8. The pointer
register of an auto-increment or auto-decrement operand ends as the address phase leaves it. -/
def Obligations.modify_memory_result : Prop :=
  ∀ (op : ByteOp) (m : Mem) (i : Instr) (t : State), i ∈ op.memInstrs m →
    Completes (exec i t) (fun t' =>
      let ea := (memEA m t).1
      let old := (readByte ea (memEA m t).2).1
      ∃ r : Byte, ByteEffect op old r t t' ∧
        (Quiet t → Canonical t → t'.peek ea = storedByte t ea r) ∧
        MemLeaves [] m t t' ∧ Touches (memWrites m) op.flags [ea] t t')

/-- Each memory form makes one read and then one write of the same address, CLR among them: so a device there sees a
read and then a write (20_memory.md R68, 42 R200). That it sees no access more, a cycle that needs no transfer being
none, is decision D7 (log entry 27). The free byte a device answers and the record of its accesses are
the model's choice (log entry 6). -/
def Obligations.modify_reads_then_writes_device : Prop :=
  ∀ (op : ByteOp) (m : Mem) (i : Instr) (t : State), i ∈ op.memInstrs m → t.kindAt (memEA m t).1 = .device →
    Completes (exec i t) (fun t' => ∃ old new : Byte, new.toNat = op.value old (t.flag .c) ∧
      t'.io = (memEA m t).2.io ++ [.read (memEA m t).1 old, .write (memEA m t).1 new])

/-- TSTA, TSTB and TST complete with N and Z of the operand, V clear, C kept, and nothing written back (R234 to R236).
The pointer register of an auto-increment or auto-decrement operand ends as the address phase leaves it. -/
def Obligations.test_flags : Prop :=
  (∀ (t : State) (r : Acc), ∀ i ∈ (match r with | .a => [Instr.tsta] | .b => [Instr.tstb]),
    Completes (exec i t) (fun t' => SignAndZero (t.acc r) t' ∧ t'.flag .v = false ∧ Touches [] [.n, .z, .v] [] t t')) ∧
  ∀ (m : Mem) (t : State), Completes (exec (.tst m) t) (fun t' =>
    SignAndZero (readByte (memEA m t).1 (memEA m t).2).1 t' ∧ t'.flag .v = false ∧
    MemLeaves [] m t t' ∧ Touches (memWrites m) [.n, .z, .v] [] t t')

/-- DAA completes for every A, H and C with the corrected byte, N and Z from it, C set by the carry or left set, any
V, and nothing else (R237). The V left free is log entry 8. -/
def Obligations.decimal_adjust_result : Prop :=
  ∀ t : State, Completes (exec .daa t) (fun t' =>
    let low := t.a.toNat % 16
    let high := t.a.toNat / 16
    let fixLow := if t.flag .h = true ∨ 9 < low then 6 else 0
    let fixHigh := if t.flag .c = true ∨ 9 < high ∨ (8 < high ∧ 9 < low) then 6 else 0
    t'.a.toNat = (t.a.toNat + (16 * fixHigh + fixLow)) % 256 ∧ SignAndZero t'.a t' ∧
    (t'.flag .c = true ↔ t.flag .c = true ∨ 256 ≤ t.a.toNat + (16 * fixHigh + fixLow)) ∧
    Touches [.a] [.n, .z, .v, .c] [] t t')

/-- ADDA of two bytes of two decimal digits each, then DAA, leaves the two digits of the decimal sum in A and the
hundreds in C (R237: meaningful after ADDA on two valid BCD bytes). -/
def Obligations.decimal_addition_is_correct : Prop :=
  ∀ (t : State) (p q r s : Nat), p < 10 → q < 10 → r < 10 → s < 10 → t.a.toNat = 16 * p + q →
    ∀ m : Byte, m.toNat = 16 * r + s →
    Completes (exec (.adda (.imm m)) t) (fun t1 => Completes (exec .daa t1) (fun t2 =>
      ∃ u v, u < 10 ∧ v < 10 ∧ t2.a.toNat = 16 * u + v ∧
        (10 * p + q) + (10 * r + s) = 100 * (t2.flag .c).toNat + 10 * u + v))

/-- MUL completes with the unsigned product in A:B, Z from its 16 bits, C its bit 7, N and V kept (R238). -/
def Obligations.multiply_result : Prop :=
  ∀ t : State, Completes (exec .mul t) (fun t' =>
    256 * t'.a.toNat + t'.b.toNat = t.a.toNat * t.b.toNat ∧
    t'.flag .z = decide (t.a.toNat * t.b.toNat = 0) ∧ t'.flag .c = decide (128 ≤ t'.b.toNat) ∧
    Touches [.a, .b] [.z, .c] [] t t')

/-! ## 16-bit instructions -/

/-- The flags of a 16-bit difference (43 R251). -/
def WideDifferenceFlags (x m d : Word) (t' : State) : Prop :=
  (d.toNat : Int) = ((x.toNat : Int) - m.toNat) % 65536 ∧ SignAndZero d t' ∧
  (t'.flag .v = true ↔ OutOfRange 16 (x.toInt - m.toInt)) ∧ t'.flag .c = decide (x.toNat < m.toNat)

/-- ADDD completes with the 16-bit sum in D and SUBD with the difference; CMPD, CMPX, CMPY, CMPU and CMPS complete
with the flags of the difference and no register written but the one an auto-increment or auto-decrement names, the
register being read after the operand; all write N, Z, V, C and keep H (R250, R251, R253 to R259; 40 R155). That order
is decision D19 (log entry 20). The pointer register of an auto-increment or auto-decrement operand ends as the
address phase leaves it. -/
def Obligations.wide_arithmetic_result : Prop :=
  ∀ (o : Src16) (t : State),
    Completes (exec (.addd o) t) (fun t' =>
      let m := (operand16 o t).1
      t'.d.toNat = (t.d.toNat + m.toNat) % 65536 ∧ SignAndZero t'.d t' ∧
      (t'.flag .v = true ↔ OutOfRange 16 (t.d.toInt + m.toInt)) ∧
      t'.flag .c = decide (65536 ≤ t.d.toNat + m.toNat) ∧
      Src16Leaves [] o t t' ∧ Touches (Loc.a :: .b :: src16Writes o) [.n, .z, .v, .c] [] t t') ∧
    Completes (exec (.subd o) t) (fun t' => WideDifferenceFlags t.d (operand16 o t).1 t'.d t' ∧
      Src16Leaves [] o t t' ∧ Touches (Loc.a :: .b :: src16Writes o) [.n, .z, .v, .c] [] t t') ∧
    ∀ ri ∈ [(Wide.d, Instr.cmpd o), (.ptr .x, .cmpx o), (.ptr .y, .cmpy o), (.ptr .u, .cmpu o), (.ptr .s, .cmps o)],
      Completes (exec ri.2 t) (fun t' =>
        (∃ d, WideDifferenceFlags ((operand16 o t).2.wide ri.1) (operand16 o t).1 d t') ∧
        Src16Leaves [] o t t' ∧ Touches (src16Writes o) [.n, .z, .v, .c] [] t t')

/-- LDD, LDX, LDY, LDU and LDS complete with the operand in the register, N and Z from it, V clear; LDS also arms NMI
(R252, R260 to R264, 60 R421). The pointer register of an auto-increment or auto-decrement operand, where it is not
the destination, ends as the address phase leaves it. Where it is the destination the loaded value stands in it (40
R155; decision D19, log entry 20). -/
def Obligations.load_wide_result : Prop :=
  ∀ (o : Src16) (t : State),
    (∀ ri ∈ [(Wide.d, Instr.ldd o), (.ptr .x, .ldx o), (.ptr .y, .ldy o), (.ptr .u, .ldu o)],
      Completes (exec ri.2 t) (fun t' =>
        t'.wide ri.1 = (operand16 o t).1 ∧ SignAndZero (operand16 o t).1 t' ∧ t'.flag .v = false ∧
        Src16Leaves ri.1.locs o t t' ∧ Touches (ri.1.locs ++ src16Writes o) [.n, .z, .v] [] t t')) ∧
    Completes (exec (.lds o) t) (fun t' =>
      t'.s = (operand16 o t).1 ∧ t'.nmiArmed = true ∧ SignAndZero (operand16 o t).1 t' ∧ t'.flag .v = false ∧
      Src16Leaves [.s] o t t' ∧ Touches (Loc.s :: .nmiArmed :: src16Writes o) [.n, .z, .v] [] t t')

/-- STD, STX, STY, STU and STS complete with the register, as the address phase leaves it, stored high byte first at
the effective address (where RAM is), N and Z from it, V clear, and no other byte changed (R252, R265 to R269; 40
R155). That order and the flags of a store are decisions D19 and D37 (log entries 20, 29). The pointer register of an
auto-increment or auto-decrement operand ends as the address phase leaves it. -/
def Obligations.store_wide_result : Prop :=
  ∀ (m : Mem) (t : State),
    ∀ ri ∈ [(Wide.d, Instr.std m), (.ptr .x, .stx m), (.ptr .y, .sty m), (.ptr .u, .stu m), (.ptr .s, .sts m)],
      Completes (exec ri.2 t) (fun t' =>
        let ea := (memEA m t).1
        let v := (memEA m t).2.wide ri.1
        (Quiet t → Canonical t → t'.peek ea = storedByte t ea (highByte v) ∧
          t'.peek (ea + 1) = storedByte t (ea + 1) (lowByte v)) ∧
        SignAndZero v t' ∧ t'.flag .v = false ∧
        MemLeaves [] m t t' ∧ Touches (memWrites m) [.n, .z, .v] [ea, ea + 1] t t')

/-- LEAX, LEAY, LEAU and LEAS complete with the effective address in the register; LEAX and LEAY write Z, LEAU and
LEAS no flag (R270 to R273). The pointer register of an auto-increment or auto-decrement operand, where it is not the
destination, ends as the address phase leaves it. Where the increment or decrement is of the destination itself, as in
LEAX ,X+ and LEAS ,S++, that the effective address stands in it at the end is the spec's own choice: 40 R155, decision
D19, log entry 20. Whether LEAS arms NMI is left free (log entry 9). -/
def Obligations.load_address_result : Prop :=
  ∀ (i : Indexed) (t : State),
    (∀ ri ∈ [(Ptr.x, Instr.leax i), (.y, .leay i)],
      Completes (exec ri.2 t) (fun t' =>
        t'.ptr ri.1 = (indexedEA i t).1 ∧ t'.flag .z = decide ((indexedEA i t).1.toNat = 0) ∧
        IndexedLeaves [ptrLoc ri.1] i t t' ∧ Touches (ptrLoc ri.1 :: indexedWrites i) [.z] [] t t')) ∧
    Completes (exec (.leau i) t) (fun t' =>
      t'.u = (indexedEA i t).1 ∧ IndexedLeaves [.u] i t t' ∧ Touches (Loc.u :: indexedWrites i) [] [] t t') ∧
    Completes (exec (.leas i) t) (fun t' =>
      t'.s = (indexedEA i t).1 ∧ (t.nmiArmed = true → t'.nmiArmed = true) ∧
      IndexedLeaves [.s] i t t' ∧ Touches (Loc.s :: .nmiArmed :: indexedWrites i) [] [] t t')

/-- ABX completes with B added unsigned into X and no flag written; SEX with A the sign of B, N and Z from D (R274,
R275). That SEX keeps V is decision D14 (log entry 30). -/
def Obligations.widening_b_result : Prop :=
  ∀ t : State,
    Completes (exec .abx t) (fun t' =>
      t'.x.toNat = (t.x.toNat + t.b.toNat) % 65536 ∧ Touches [.x] [] [] t t') ∧
    Completes (exec .sex t) (fun t' =>
      t'.d.toInt = t.b.toInt ∧ SignAndZero t'.d t' ∧ t'.b = t.b ∧ Touches [.a] [.n, .z] [] t t')

/-! ## Stack and transfer -/

/-- `push8`, `push16`, `pull8` and `pull16` (20_memory.md R81, R82): a push decrements the pointer before each byte,
modulo 2^16, so that it addresses the last byte pushed, and lays a word high byte first; a pull of the same width
gives the value back, raises the pointer again and leaves the bytes in memory. -/
def Obligations.push_and_pull_primitives : Prop :=
  ∀ (p : Ptr) (t : State), Quiet t → Canonical t → Ram t (t.ptr p - 1) → Ram t (t.ptr p - 2) →
    (∀ v : Byte, (push8 p v t).ptr p = t.ptr p - 1 ∧ (push8 p v t).peek (t.ptr p - 1) = v ∧
      (pull8 p (push8 p v t)).1 = v ∧ (pull8 p (push8 p v t)).2.ptr p = t.ptr p ∧
      (pull8 p (push8 p v t)).2.mem = (push8 p v t).mem) ∧
    (∀ v : Word, (push16 p v t).ptr p = t.ptr p - 2 ∧
      (push16 p v t).peek (t.ptr p - 1) = lowByte v ∧ (push16 p v t).peek (t.ptr p - 2) = highByte v ∧
      (pull16 p (push16 p v t)).1 = v ∧ (pull16 p (push16 p v t)).2.ptr p = t.ptr p ∧
      (pull16 p (push16 p v t)).2.mem = (push16 p v t).mem)

/-- PSHS and PSHU complete with the listed registers below the pointer in the fixed layout, the pointer lower by the
bytes pushed, and nothing else changed (44 R291 to R293). The PC pushed and the other pointer in the list are
decisions D30 and D36 (log entries 28, 31). -/
def Obligations.push_list_result : Prop :=
  ∀ (regs : Byte) (t : State), ∀ pi ∈ [(Ptr.s, Instr.pshs regs), (.u, .pshu regs)],
    (listImage pi.1 regs t).length = listCount regs ∧
    Completes (exec pi.2 t) (fun t' =>
      Pushed pi.1 (listImage pi.1 regs t) t t' ∧
      Touches [ptrLoc pi.1] [] (below (t.ptr pi.1) (listCount regs)) t t')

/-- PULS and PULU complete with the listed registers holding the bytes at the pointer in the fixed layout (where
memory is plain), the pointer higher by the bytes pulled, no memory changed, and no register or flag that is not
listed; a pulled S may arm NMI (44 R291, R294, R295). That the other pointer, U in PULS and S in PULU, is written by
bit 6 as an ordinary write is the spec's own choice, decision D36 (log entry 31); whether PULU S arms NMI is left free
(D18, log entry 9). -/
def Obligations.pull_list_result : Prop :=
  ∀ (regs : Byte) (t : State), ∀ pi ∈ [(Ptr.s, Instr.puls regs), (.u, .pulu regs)],
    Completes (exec pi.2 t) (fun t' =>
      t'.ptr pi.1 = t.ptr pi.1 + BitVec.ofNat 16 (listCount regs) ∧
      (Quiet t → (∀ addr ∈ upFrom (t.ptr pi.1) (listCount regs), Plain t addr) →
        listImage pi.1 regs t' = t.peekBytes (t.ptr pi.1) (listCount regs)) ∧
      (t.nmiArmed = true → t'.nmiArmed = true) ∧
      Touches (ptrLoc pi.1 :: (if pi.1 = .u ∧ regs.getLsbD 6 = true then [Loc.nmiArmed] else []) ++ listLocs pi.1 regs)
        (if regs.getLsbD 0 then allFlags else []) [] t t')

/-- TFR and EXG complete for registers of one size: TFR with the first register's value in the second, EXG with the
two values exchanged; all of CC where CC is written, NMI armed where S is, and nothing else changed (44 R296 to R298).
The PC read is decision D30 (log entry 28). -/
def Obligations.transfer_and_exchange_result : Prop :=
  ∀ (p q : Reg) (t : State), p.sameSize q = true →
    Completes (exec (.tfr p q) t) (fun t' =>
      regNumber q t' = regNumber p t ∧ (q = .s → t'.nmiArmed = true) ∧
      Touches (regLocs q) (regFlags q) [] t t') ∧
    Completes (exec (.exg p q) t) (fun t' =>
      regNumber p t' = regNumber q t ∧ regNumber q t' = regNumber p t ∧ (p = .s ∨ q = .s → t'.nmiArmed = true) ∧
      Touches (regLocs p ++ regLocs q) (regFlags p ++ regFlags q) [] t t')

/-- TFR and EXG of registers of two sizes fault, as a term and as a fetched postbyte, and so do undefined register
codes (30 R110). The faults are decision D11; that the terms fault as the bytes do is the model's choice (log entries
12, 13). -/
def Obligations.mixed_sizes_fault : Prop :=
  (∀ (p q : Reg) (t : State), p.sameSize q = false →
    exec (.tfr p q) t = .fault (.illegalRegisterCode (pairByte p q)) ∧
    exec (.exg p q) t = .fault (.illegalRegisterCode (pairByte p q))) ∧
  ∀ (op pb : Byte) (rest : List Byte), op = 0x1E ∨ op = 0x1F →
    (decode (op :: pb :: rest) = .illegal (.illegalRegisterCode pb) ↔
      ¬ ((pb.toNat / 16 < 6 ∧ pb.toNat % 16 < 6) ∨
        (8 ≤ pb.toNat / 16 ∧ pb.toNat / 16 < 12 ∧ 8 ≤ pb.toNat % 16 ∧ pb.toNat % 16 < 12)))

/-! ## Branches and calls -/

/-- The sixteen conditions (45 R310): the opcode's low nibble selects the branch, each even code and the odd code
after it are complements, and the other four flags play no part. -/
def Obligations.branch_codes_and_conditions : Prop :=
  (∀ (code : Nat) (off : Byte), code < 16 →
    ∃ i ∈ shortBranches code off, decode [BitVec.ofNat 8 (0x20 + code), off] = .done i []) ∧
  (∀ (code : Nat) (h l : Byte), 0 < code → code < 16 →
    ∃ i ∈ longBranches code (joinBytes h l), decode [0x10, BitVec.ofNat 8 (0x20 + code), h, l] = .done i []) ∧
  (∀ (k : Nat) (n z v c : Bool), k < 8 → branchTaken (2 * k) n z v c = !branchTaken (2 * k + 1) n z v c)

/-- Every branch completes with PC at the signed offset from the next instruction if its condition holds on N, Z, V,
C, with PC unchanged if not, and with nothing else changed. Short: BRA, BRN, BHI, BLS, BCC, BHS, BCS, BLO, BNE, BEQ,
BVC, BVS, BPL, BMI, BGE, BLT, BGT, BLE. Long: LBRA, LBRN, LBHI, LBLS, LBCC, LBHS, LBCS, LBLO, LBNE, LBEQ, LBVC, LBVS,
LBPL, LBMI, LBGE, LBLT, LBGT, LBLE (45 R310 to R348). The base of the offset is decision D30 (log entry 28). -/
def Obligations.branch_result : Prop :=
  (∀ (code : Nat) (off : Byte) (i : Instr) (t : State), i ∈ shortBranches code off →
    Completes (exec i t) (fun t' => t' = t.setPc t'.pc ∧
      (branchTaken code (t.flag .n) (t.flag .z) (t.flag .v) (t.flag .c) = true →
        (t'.pc.toNat : Int) = (t.pc.toNat + off.toInt) % 65536) ∧
      (branchTaken code (t.flag .n) (t.flag .z) (t.flag .v) (t.flag .c) = false → t'.pc = t.pc))) ∧
  ∀ (code : Nat) (off : Word) (i : Instr) (t : State), i ∈ longBranches code off →
    Completes (exec i t) (fun t' => t' = t.setPc t'.pc ∧
      (branchTaken code (t.flag .n) (t.flag .z) (t.flag .v) (t.flag .c) = true →
        (t'.pc.toNat : Int) = (t.pc.toNat + off.toInt) % 65536) ∧
      (branchTaken code (t.flag .n) (t.flag .z) (t.flag .v) (t.flag .c) = false → t'.pc = t.pc))

/-- After a compare or a subtraction the conditions order the register against the operand: HI, LS, HS, LO as unsigned
numbers, NE and EQ, GE, LT, GT, LE as signed numbers (R310; 41 R171, 43 R251). In the 16-bit half the register
compared is the one after the address phase, so that CMPX ,X++ orders the incremented X: the spec's own choice, 40
R155, decision D19, log entry 20. -/
def Obligations.compare_then_branch_orders : Prop :=
  (∀ (o : Src8) (t t' : State), ∀ ri ∈ [(Acc.a, Instr.cmpa o), (.b, .cmpb o), (.a, .suba o), (.b, .subb o)],
    exec ri.2 t = .next t' →
    let x := t.acc ri.1
    let m := (operand8 o t).1
    (takes .higher t' = true ↔ m.toNat < x.toNat) ∧ (takes .lowerOrSame t' = true ↔ x.toNat ≤ m.toNat) ∧
    (takes .carryClear t' = true ↔ m.toNat ≤ x.toNat) ∧ (takes .carrySet t' = true ↔ x.toNat < m.toNat) ∧
    (takes .notEqual t' = true ↔ x ≠ m) ∧ (takes .equal t' = true ↔ x = m) ∧
    (takes .greaterOrEqual t' = true ↔ m.toInt ≤ x.toInt) ∧ (takes .less t' = true ↔ x.toInt < m.toInt) ∧
    (takes .greater t' = true ↔ m.toInt < x.toInt) ∧ (takes .lessOrEqual t' = true ↔ x.toInt ≤ m.toInt)) ∧
  ∀ (o : Src16) (t t' : State),
    ∀ ri ∈ [(Wide.d, Instr.cmpd o), (.ptr .x, .cmpx o), (.ptr .y, .cmpy o), (.ptr .u, .cmpu o), (.ptr .s, .cmps o),
      (.d, .subd o)],
    exec ri.2 t = .next t' →
    let x := (operand16 o t).2.wide ri.1
    let m := (operand16 o t).1
    (takes .higher t' = true ↔ m.toNat < x.toNat) ∧ (takes .lowerOrSame t' = true ↔ x.toNat ≤ m.toNat) ∧
    (takes .carryClear t' = true ↔ m.toNat ≤ x.toNat) ∧ (takes .carrySet t' = true ↔ x.toNat < m.toNat) ∧
    (takes .notEqual t' = true ↔ x ≠ m) ∧ (takes .equal t' = true ↔ x = m) ∧
    (takes .greaterOrEqual t' = true ↔ m.toInt ≤ x.toInt) ∧ (takes .less t' = true ↔ x.toInt < m.toInt) ∧
    (takes .greater t' = true ↔ m.toInt < x.toInt) ∧ (takes .lessOrEqual t' = true ↔ x.toInt ≤ m.toInt)

/-- BSR, LBSR and JSR complete with the address of the next instruction pushed on the hardware stack and PC at the
target; JSR forms its target before it pushes; JMP completes with PC at the effective address (45 R349, R350; 46 R364,
R365; D20). The order is log entry 20. The pointer register of an auto-increment or auto-decrement operand ends as the
address phase leaves it, S lower by the two bytes pushed. -/
def Obligations.call_and_jump_result : Prop :=
  (∀ (off : Byte) (t : State), Completes (exec (.bsr off) t) (fun t' =>
    (t'.pc.toNat : Int) = (t.pc.toNat + off.toInt) % 65536 ∧ Pushed .s (wordBytes t.pc) t t' ∧
    Touches [.s, .pc] [] (below t.s 2) t t')) ∧
  (∀ (off : Word) (t : State), Completes (exec (.lbsr off) t) (fun t' =>
    (t'.pc.toNat : Int) = (t.pc.toNat + off.toInt) % 65536 ∧ Pushed .s (wordBytes t.pc) t t' ∧
    Touches [.s, .pc] [] (below t.s 2) t t')) ∧
  (∀ (m : Mem) (t : State), Completes (exec (.jsr m) t) (fun t' =>
    t'.pc = (memEA m t).1 ∧ Pushed .s (wordBytes t.pc) (memEA m t).2 t' ∧
    MemLeaves [.s] m t t' ∧ Touches (Loc.s :: .pc :: memWrites m) [] (below (memEA m t).2.s 2) t t')) ∧
  ∀ (m : Mem) (t : State), Completes (exec (.jmp m) t) (fun t' =>
    t'.pc = (memEA m t).1 ∧ MemLeaves [] m t t' ∧ Touches (Loc.pc :: memWrites m) [] [] t t')

/-! ## Condition codes, returns, software interrupts and waits -/

/-- ANDCC, ORCC, NOP and SYNC complete, for every bit of CC, with exactly their one effect (46 R360, R361, R363,
R371). -/
def Obligations.cc_nop_sync_result : Prop :=
  ∀ (v : Byte) (t : State),
    Completes (exec (.andcc v) t) (fun t' => t' = t.setCc t'.cc ∧ ∀ k : Flag, t'.flag k = (t.flag k && v.getLsbD k.bit)) ∧
    Completes (exec (.orcc v) t) (fun t' => t' = t.setCc t'.cc ∧ ∀ k : Flag, t'.flag k = (t.flag k || v.getLsbD k.bit)) ∧
    exec .nop t = .next t ∧
    exec .sync t = .next (t.setRun .syncing)

/-- RTS completes with PC pulled from the hardware stack; RTI with CC pulled and then, by the E bit just pulled, the
entire state (12 bytes) or only PC (3 bytes), no memory changed (46 R366, R367). -/
def Obligations.return_result : Prop :=
  ∀ t : State,
    Completes (exec .rts t) (fun t' => t'.s = t.s + 2 ∧
      (Quiet t → Plain t t.s → Plain t (t.s + 1) → t'.pc = t.peekWord t.s) ∧ Touches [.s, .pc] [] [] t t') ∧
    Completes (exec .rti t) (fun t' =>
      (Quiet t → Plain t t.s → t'.cc = t.peek t.s) ∧
      (t'.flag .e = true → t'.s = t.s + 12 ∧
        (Quiet t → (∀ addr ∈ upFrom t.s 12, Plain t addr) → entireImage t'.cc t' = t.peekBytes t.s 12) ∧
        Touches [.a, .b, .dp, .x, .y, .u, .s, .pc] allFlags [] t t') ∧
      (t'.flag .e = false → t'.s = t.s + 3 ∧
        (Quiet t → (∀ addr ∈ upFrom t.s 3, Plain t addr) → [t'.cc] ++ wordBytes t'.pc = t.peekBytes t.s 3) ∧
        Touches [.s, .pc] allFlags [] t t'))

/-- The entry that SWI, SWI2, SWI3, NMI and IRQ share: the entire state is pushed with E set and the old masks, E is
set, the masks named are set, PC comes from the vector, and nothing else is changed. -/
def EntersEntire (v : Word) (setI setF : Bool) (more : List Loc) (t t' : State) : Prop :=
  Pushed .s (entireImage (writeFlag t.cc .e true) t) t t' ∧ AtVector v t t' ∧ t'.flag .e = true ∧
  t'.flag .i = (t.flag .i || setI) ∧ t'.flag .f = (t.flag .f || setF) ∧
  Touches (Loc.s :: .pc :: more) [.e, .i, .f] (below t.s 12) t t'

/-- SWI, SWI2 and SWI3 complete with the entire state stacked and PC from their vectors; SWI sets I and F, the other
two set neither (46 R368 to R370). -/
def Obligations.software_interrupt_result : Prop :=
  ∀ t : State,
    Completes (exec .swi t) (EntersEntire 0xFFFA true true [] t) ∧
    Completes (exec .swi2 t) (EntersEntire 0xFFF4 false false [] t) ∧
    Completes (exec .swi3 t) (EntersEntire 0xFFF2 false false [] t)

/-- CWAI completes with CC ANDed with its byte and E set, the entire state with that CC stacked, and the run state
CwaiWaiting; PC and the other registers are kept (46 R362). What the wait's end does not do is log entry 21. -/
def Obligations.cwai_result : Prop :=
  ∀ (v : Byte) (t : State), Completes (exec (.cwai v) t) (fun t' =>
    t'.cc = writeFlag (t.cc &&& v) .e true ∧ t'.run = .cwaiWaiting ∧
    Pushed .s (entireImage (writeFlag (t.cc &&& v) .e true) t) t t' ∧
    Touches [.s, .run] allFlags (below t.s 12) t t')

/-- RTI undoes SWI: from a stack in RAM, with no other bus master, it gives back every register, CC with E set, and S
(46 R366, R368; 60 R416). -/
def Obligations.rti_undoes_swi : Prop :=
  ∀ t t1 : State, Quiet t → Canonical t → (∀ addr ∈ below t.s 12, Ram t addr) → exec .swi t = .next t1 →
    Completes (exec .rti t1) (fun t2 =>
      t2.cc = writeFlag t.cc .e true ∧ (∀ l : Loc, t2.look l = t.look l))

/-! ## Interrupts, waits, HALT and reset -/

/-- What a boundary does before anything else (60 R403, R420, R422; 20_memory.md R74): the next pin sample is taken,
an NMI edge is latched whatever the run state, the record of the bus is begun, and the other bus master has its turn,
which changes no register and no flag: memory, the other master's schedule and the record after it are those of
`agentTurn`. A turn with no schedule is nothing; a turn makes the next batch of writes, the last one to an address
counting, into RAM and nowhere else, moves the schedule on, and puts one grant on the record unless the batch is
empty. Each byte access of the MPU begins with such a turn: a read of plain memory answers what the turn leaves, and a
write to RAM comes after it. The schedules of pins and of the other master are the model's choice, as is the record;
the latch is decision D27 (log entries 10, 11, 25, 35). -/
def Obligations.boundary_takes_inputs : Prop :=
  (∀ t : State,
    (openBoundary t).1 = t.pins.headD Pins.inactive ∧ (openBoundary t).2.pins = t.pins.tail ∧
    (openBoundary t).2.nmiPending = (t.nmiPending || (t.pins.headD Pins.inactive).nmiEdge) ∧
    (∀ l : Loc, l ≠ .nmiPending → (openBoundary t).2.look l = t.look l) ∧ (openBoundary t).2.cc = t.cc ∧
    (openBoundary t).2.io = t.io ∧ (openBoundary t).2.platform = t.platform ∧
    (openBoundary t).2.mem = (agentTurn t).mem ∧ (openBoundary t).2.agent = (agentTurn t).agent ∧
    (openBoundary t).2.bus = (agentTurn (t.setBus [])).bus) ∧
  (∀ t : State, t.agent = [] → agentTurn t = t) ∧
  (∀ (t : State) (batch : List AgentWrite) (later : List (List AgentWrite)), t.agent = batch :: later → Canonical t →
    (agentTurn t).agent = later ∧ (agentTurn t).bus = t.bus ++ (if batch = [] then [] else [.grant]) ∧
    (∀ l : Loc, (agentTurn t).look l = t.look l) ∧ (agentTurn t).cc = t.cc ∧ (agentTurn t).io = t.io ∧
    (∀ addr, Ram t addr → (agentTurn t).peek addr = afterBatch batch t addr) ∧
    (∀ addr, ¬ Ram t addr → (agentTurn t).peek addr = t.peek addr)) ∧
  ∀ (t : State) (addr : Word),
    (Plain t addr → (readByte addr t).1 = (agentTurn t).peek addr) ∧
    (readByte addr t).2.agent = (agentTurn t).agent ∧ (readByte addr t).2.mem = (agentTurn t).mem ∧
    ∀ v : Byte, (writeByte addr v t).agent = (agentTurn t).agent ∧
      (∀ b, b ≠ addr → (writeByte addr v t).peek b = (agentTurn t).peek b) ∧
      (Ram t addr → Canonical t → (writeByte addr v t).peek addr = v)

/-- `Enter_NMI` (60 R410): at a boundary of a running machine, an armed pending NMI stacks the entire state with E
set, sets I and F, clears the pending latch and takes the NMI vector, whatever FIRQ and IRQ ask. -/
def Obligations.nmi_entry : Prop :=
  ∀ (p : Pins) (t : State), p.reset = false → p.halt = false → t.run = .running → t.nmiPending = true →
    t.nmiArmed = true →
    Completes (stepWithPins p t) (fun t' =>
      t'.nmiPending = false ∧ EntersEntire 0xFFFC true true [.nmiPending] t t')

/-- `Enter_FIRQ` (60 R411): a low FIRQ with F clear, and no NMI to take, stacks PC and CC with E clear, sets F and I
and takes the FIRQ vector; A, B, DP, X, Y and U are not saved. -/
def Obligations.firq_entry : Prop :=
  ∀ (p : Pins) (t : State), p.reset = false → p.halt = false → t.run = .running →
    (t.nmiPending && t.nmiArmed) = false → p.firq = true → t.flag .f = false →
    Completes (stepWithPins p t) (fun t' =>
      Pushed .s (writeFlag t.cc .e false :: wordBytes t.pc) t t' ∧ AtVector 0xFFF6 t t' ∧
      t'.flag .e = false ∧ t'.flag .f = true ∧ t'.flag .i = true ∧
      Touches [.s, .pc] [.e, .i, .f] (below t.s 3) t t')

/-- `Enter_IRQ` (60 R412): a low IRQ with I clear, and no NMI or FIRQ to take, stacks the entire state with E set,
sets I, keeps F and takes the IRQ vector. -/
def Obligations.irq_entry : Prop :=
  ∀ (p : Pins) (t : State), p.reset = false → p.halt = false → t.run = .running →
    (t.nmiPending && t.nmiArmed) = false → (p.firq && !t.flag .f) = false → p.irq = true → t.flag .i = false →
    Completes (stepWithPins p t) (EntersEntire 0xFFF8 true false [] t)

/-- A CWAI wait (60 R417): an armed pending NMI, else FIRQ with F clear, else IRQ with I clear, sets its masks, takes
its vector and runs on, pushing nothing and leaving E; with none of them nothing changes. That nothing is pushed and E
is kept is decision D21 (log entry 21). -/
def Obligations.cwai_wait_ends_on_unmasked : Prop :=
  ∀ (p : Pins) (t : State), p.reset = false → p.halt = false → t.run = .cwaiWaiting →
    (let nmi := t.nmiPending && t.nmiArmed
     let firq := p.firq && !t.flag .f
     let irq := p.irq && !t.flag .i
     (nmi = true → Completes (stepWithPins p t) (fun t' => t'.nmiPending = false ∧ t'.run = .running ∧
        AtVector 0xFFFC t t' ∧ t'.flag .i = true ∧ t'.flag .f = true ∧
        Touches [.pc, .run, .nmiPending] [.i, .f] [] t t')) ∧
     (nmi = false → firq = true → Completes (stepWithPins p t) (fun t' => t'.run = .running ∧ AtVector 0xFFF6 t t' ∧
        t'.flag .i = true ∧ t'.flag .f = true ∧ Touches [.pc, .run] [.i, .f] [] t t')) ∧
     (nmi = false → firq = false → irq = true → Completes (stepWithPins p t) (fun t' => t'.run = .running ∧
        AtVector 0xFFF8 t t' ∧ t'.flag .i = true ∧ Touches [.pc, .run] [.i] [] t t')) ∧
     (nmi = false → firq = false → irq = false → stepWithPins p t = .next t))

/-- A SYNC wait (60 R418): with no armed pending NMI and neither line low nothing changes; otherwise the machine runs
on in the same step, taking an interrupt that is recognised, or the next instruction; after a short pulse always the
next instruction. What ends the wait, and the pulse input, are decision D22 (log entry 22). -/
def Obligations.sync_wait_ends_on_any_line : Prop :=
  ∀ (p : Pins) (t : State), p.reset = false → p.halt = false → t.run = .syncing →
    (let wakes := (t.nmiPending && t.nmiArmed) || p.firq || p.irq
     (wakes = false → stepWithPins p t = .next t) ∧
     (wakes = true → p.syncShort = false → stepWithPins p t = stepWithPins p (t.setRun .running)) ∧
     (wakes = true → p.syncShort = true → stepWithPins p t = executeNext (t.setRun .running)))

/-- HALT (60 R419): while it is low nothing changes but that Running becomes Halted; when it is released the machine
does at that boundary what a running machine does; the waits are kept. BA and BS are one while halted. HALT in a wait
is decision D23 (log entry 23). -/
def Obligations.halt_holds_the_machine : Prop :=
  (∀ (p : Pins) (t : State), p.reset = false → p.halt = true →
    stepWithPins p t = .next (if t.run = .running then t.setRun .halted else t)) ∧
  (∀ (p : Pins) (t : State), p.reset = false → p.halt = false → t.run = .halted →
    stepWithPins p t = stepWithPins p (t.setRun .running)) ∧
  RunState.halted.busPins = (true, true)

/-- The reset sequence (70 R461), in every run state and whatever the other pins: F and I set, DP zero, NMI blocked,
the run state Running, PC from the reset vector; nothing is pushed, the pending latch, the other registers, the other
flags and memory are kept; repeated, with the vector in plain memory and no other bus master, it gives the same but
for its two more reads on the record of the bus. That reset lands at a boundary and keeps the latch is log entries 25
and 26. -/
def Obligations.reset_sequence_result : Prop :=
  ∀ (p : Pins) (t : State), p.reset = true →
    Completes (stepWithPins p t) (fun t' =>
      t'.flag .f = true ∧ t'.flag .i = true ∧ t'.dp = 0x00 ∧ t'.nmiArmed = false ∧ t'.run = .running ∧
      AtVector 0xFFFE t t' ∧ Touches [.dp, .pc, .nmiArmed, .run] [.f, .i] [] t t' ∧
      (Quiet t → Plain t 0xFFFE → Plain t 0xFFFF →
        stepWithPins p t' = .next (t'.setBus (t'.bus ++ vectorReads 0xFFFE t'.pc))))

/-! ## Promises about all instructions -/

/-- DP is written only by TFR or EXG that names it, by a pull that lists it, and by RTI (10_state.md R28). -/
def Obligations.only_named_instructions_write_dp : Prop :=
  ∀ (i : Instr) (t t' : State), exec i t = .next t' → t'.dp ≠ t.dp →
    (∃ p, i = .tfr p .dp) ∨ (∃ p, i = .exg p .dp ∨ i = .exg .dp p) ∨
    (∃ regs : Byte, regs.getLsbD 3 = true ∧ (i = .puls regs ∨ i = .pulu regs)) ∨ i = .rti

/-- A set mask I or F is cleared by no instruction but the wholesale writers of CC: ANDCC, CWAI, TFR and EXG with CC,
a pull that lists CC, RTI (10_state.md R38; 60 R406). -/
def Obligations.only_wholesale_writers_clear_masks : Prop :=
  ∀ (i : Instr) (t t' : State) (k : Flag), k = .i ∨ k = .f → exec i t = .next t' → t.flag k = true →
    t'.flag k = false →
    (∃ v, i = .andcc v ∨ i = .cwai v) ∨ (∃ p, i = .tfr p .cc ∨ i = .exg p .cc ∨ i = .exg .cc p) ∨
    (∃ regs : Byte, regs.getLsbD 0 = true ∧ (i = .puls regs ∨ i = .pulu regs)) ∨ i = .rti

/-- Once armed, NMI stays armed through every step in which RESET is not asserted; and a step that arms it neither
begins in a CWAI wait nor ends halted (60 R421). Which instructions arm it is partly free (log entry 9). -/
def Obligations.nmi_stays_armed_until_reset : Prop :=
  ∀ (p : Pins) (t t' : State), stepWithPins p t = .next t' → p.reset = false →
    (t.nmiArmed = true → t'.nmiArmed = true) ∧
    (t.nmiArmed = false → t'.nmiArmed = true → t'.run ≠ .halted ∧ t.run ≠ .cwaiWaiting)

/-- No step changes the platform, the kind of unit at each address, and every instruction but CWAI and SYNC keeps the
run state (20_memory.md R69, 10_state.md R43). The platform as data is log entry 5. -/
def Obligations.platform_and_run_state_kept : Prop :=
  (∀ t t' : State, step t = .next t' → t'.platform = t.platform) ∧
  ∀ (i : Instr) (t t' : State), exec i t = .next t' → t'.run ≠ t.run → i = .sync ∨ ∃ v, i = .cwai v

/-- What the accesses listed here move over the bus (20_memory.md R66, R68, R69; 10_state.md R44, 60_exceptions.md
R414, R431). Whatever an instruction does, the devices see exactly its transfers at their addresses, in order. ADCA,
ADCB, ADDA, ADDB, ANDA, ANDB, BITA, BITB, CMPA, CMPB, EORA, EORB, LDA, LDB, ORA, ORB, SBCA, SBCB, SUBA, SUBB and TST
read one byte at the effective address; STA and STB write the accumulator there without a read; the read-modify-writes
read and then write there; ADDD, SUBD, CMPD, CMPX, CMPY, CMPU, CMPS, LDD, LDX, LDY, LDU and LDS read the high byte and
then the low one; STD, STX, STY, STU and STS write them in that order; LEAX, LEAY, LEAU, LEAS and JMP move nothing
more than the address phase, which moves the two bytes of an indirect pointer and nothing else. A push writes one byte
and a pull reads one. A vector fetch makes two acknowledging reads. Of the outputs in these cycles, R/W is 1 in a read
and 0 in a write, BA is 0, and BS is 1 in an acknowledging read only; in a grant BA and BS are 1. That the high byte
of an operand or of an indirect pointer is accessed before the low one is the spec's own choice, decision D1, which
R66 marks as one (log entry 18); that these transfers are all, a cycle that needs no transfer being none, is its
choice in decision D7 (log entry 27). The records are the model's choice (log entries 6, 35). -/
def Obligations.accesses_move_their_bytes : Prop :=
  (∀ (i : Instr) (t t' : State), exec i t = .next t' → ∃ cs, Moves cs t t') ∧
  (∀ (m : Mem) (t : State),
    let ea := (memEA m t).1
    let t1 := (memEA m t).2
    (∀ i ∈ byteReaders m, Completes (exec i t) (Moves [.read ea (readByte ea t1).1] t1)) ∧
    (∀ ri ∈ byteStores m, Completes (exec ri.2 t) (Moves [.write ea (t.acc ri.1)] t1)) ∧
    (∀ (op : ByteOp), ∀ i ∈ op.memInstrs m, Completes (exec i t) (fun t' =>
      ∃ r : Byte, r.toNat = op.value (readByte ea t1).1 (t.flag .c) ∧
        Moves [.read ea (readByte ea t1).1, .write ea r] t1 t')) ∧
    (∀ i ∈ wordReaders m, Completes (exec i t) (Moves (wordReads ea (readWord ea t1).1) t1)) ∧
    (∀ ri ∈ wordStores m, Completes (exec ri.2 t) (Moves (wordWrites ea (t1.wide ri.1)) t1)) ∧
    Completes (exec (.jmp m) t) (Moves [] t1)) ∧
  (∀ (i : Indexed) (t : State),
    (indexedIndirect i = true → Moves (wordReads (indexedBase i t) (indexedEA i t).1) t (indexedEA i t).2) ∧
    (indexedIndirect i = false → Moves [] t (indexedEA i t).2) ∧
    ∀ j ∈ [Instr.leax i, .leay i, .leau i, .leas i], Completes (exec j t) (Moves [] (indexedEA i t).2)) ∧
  (∀ (p : Ptr) (v : Byte) (t : State), Moves [.write (t.ptr p - 1) v] t (push8 p v t) ∧
    Moves [.read (t.ptr p) (pull8 p t).1] t (pull8 p t).2) ∧
  (∀ (v : Word) (t : State), Moves (vectorReads v (loadVector v t).pc) t (loadVector v t)) ∧
  ∀ (addr : Word) (v : Byte),
    (BusCycle.read addr v).outputs = ⟨some addr, some true, (false, false)⟩ ∧
    (BusCycle.write addr v).outputs = ⟨some addr, some false, (false, false)⟩ ∧
    (BusCycle.acknowledge addr v).outputs = ⟨some addr, some true, (false, true)⟩ ∧
    BusCycle.grant.outputs = ⟨none, none, (true, true)⟩
end

