-- ==== Sys2Proof/Laws/State.lean ====
section
/-! SUPPORT. What each update of the state does to each field, so that no later proof unfolds a record update. -/

namespace Sys2Proof.Machine

@[simp] theorem State.setA_a (t : State) (v : Byte) : (t.setA v).a = v := rfl
@[simp] theorem State.setA_b (t : State) (v : Byte) : (t.setA v).b = t.b := rfl
@[simp] theorem State.setA_dp (t : State) (v : Byte) : (t.setA v).dp = t.dp := rfl
@[simp] theorem State.setA_cc (t : State) (v : Byte) : (t.setA v).cc = t.cc := rfl
@[simp] theorem State.setA_x (t : State) (v : Byte) : (t.setA v).x = t.x := rfl
@[simp] theorem State.setA_y (t : State) (v : Byte) : (t.setA v).y = t.y := rfl
@[simp] theorem State.setA_u (t : State) (v : Byte) : (t.setA v).u = t.u := rfl
@[simp] theorem State.setA_s (t : State) (v : Byte) : (t.setA v).s = t.s := rfl
@[simp] theorem State.setA_pc (t : State) (v : Byte) : (t.setA v).pc = t.pc := rfl
@[simp] theorem State.setA_mem (t : State) (v : Byte) : (t.setA v).mem = t.mem := rfl
@[simp] theorem State.setA_nmiArmed (t : State) (v : Byte) : (t.setA v).nmiArmed = t.nmiArmed := rfl
@[simp] theorem State.setA_nmiPending (t : State) (v : Byte) : (t.setA v).nmiPending = t.nmiPending := rfl
@[simp] theorem State.setA_run (t : State) (v : Byte) : (t.setA v).run = t.run := rfl
@[simp] theorem State.setA_pins (t : State) (v : Byte) : (t.setA v).pins = t.pins := rfl
@[simp] theorem State.setA_agent (t : State) (v : Byte) : (t.setA v).agent = t.agent := rfl
@[simp] theorem State.setA_platform (t : State) (v : Byte) : (t.setA v).platform = t.platform := rfl
@[simp] theorem State.setA_io (t : State) (v : Byte) : (t.setA v).io = t.io := rfl
@[simp] theorem State.setA_bus (t : State) (v : Byte) : (t.setA v).bus = t.bus := rfl
@[simp] theorem State.setA_freeCount (t : State) (v : Byte) : (t.setA v).freeCount = t.freeCount := rfl

@[simp] theorem State.setB_a (t : State) (v : Byte) : (t.setB v).a = t.a := rfl
@[simp] theorem State.setB_b (t : State) (v : Byte) : (t.setB v).b = v := rfl
@[simp] theorem State.setB_dp (t : State) (v : Byte) : (t.setB v).dp = t.dp := rfl
@[simp] theorem State.setB_cc (t : State) (v : Byte) : (t.setB v).cc = t.cc := rfl
@[simp] theorem State.setB_x (t : State) (v : Byte) : (t.setB v).x = t.x := rfl
@[simp] theorem State.setB_y (t : State) (v : Byte) : (t.setB v).y = t.y := rfl
@[simp] theorem State.setB_u (t : State) (v : Byte) : (t.setB v).u = t.u := rfl
@[simp] theorem State.setB_s (t : State) (v : Byte) : (t.setB v).s = t.s := rfl
@[simp] theorem State.setB_pc (t : State) (v : Byte) : (t.setB v).pc = t.pc := rfl
@[simp] theorem State.setB_mem (t : State) (v : Byte) : (t.setB v).mem = t.mem := rfl
@[simp] theorem State.setB_nmiArmed (t : State) (v : Byte) : (t.setB v).nmiArmed = t.nmiArmed := rfl
@[simp] theorem State.setB_nmiPending (t : State) (v : Byte) : (t.setB v).nmiPending = t.nmiPending := rfl
@[simp] theorem State.setB_run (t : State) (v : Byte) : (t.setB v).run = t.run := rfl
@[simp] theorem State.setB_pins (t : State) (v : Byte) : (t.setB v).pins = t.pins := rfl
@[simp] theorem State.setB_agent (t : State) (v : Byte) : (t.setB v).agent = t.agent := rfl
@[simp] theorem State.setB_platform (t : State) (v : Byte) : (t.setB v).platform = t.platform := rfl
@[simp] theorem State.setB_io (t : State) (v : Byte) : (t.setB v).io = t.io := rfl
@[simp] theorem State.setB_bus (t : State) (v : Byte) : (t.setB v).bus = t.bus := rfl
@[simp] theorem State.setB_freeCount (t : State) (v : Byte) : (t.setB v).freeCount = t.freeCount := rfl

@[simp] theorem State.setDp_a (t : State) (v : Byte) : (t.setDp v).a = t.a := rfl
@[simp] theorem State.setDp_b (t : State) (v : Byte) : (t.setDp v).b = t.b := rfl
@[simp] theorem State.setDp_dp (t : State) (v : Byte) : (t.setDp v).dp = v := rfl
@[simp] theorem State.setDp_cc (t : State) (v : Byte) : (t.setDp v).cc = t.cc := rfl
@[simp] theorem State.setDp_x (t : State) (v : Byte) : (t.setDp v).x = t.x := rfl
@[simp] theorem State.setDp_y (t : State) (v : Byte) : (t.setDp v).y = t.y := rfl
@[simp] theorem State.setDp_u (t : State) (v : Byte) : (t.setDp v).u = t.u := rfl
@[simp] theorem State.setDp_s (t : State) (v : Byte) : (t.setDp v).s = t.s := rfl
@[simp] theorem State.setDp_pc (t : State) (v : Byte) : (t.setDp v).pc = t.pc := rfl
@[simp] theorem State.setDp_mem (t : State) (v : Byte) : (t.setDp v).mem = t.mem := rfl
@[simp] theorem State.setDp_nmiArmed (t : State) (v : Byte) : (t.setDp v).nmiArmed = t.nmiArmed := rfl
@[simp] theorem State.setDp_nmiPending (t : State) (v : Byte) : (t.setDp v).nmiPending = t.nmiPending := rfl
@[simp] theorem State.setDp_run (t : State) (v : Byte) : (t.setDp v).run = t.run := rfl
@[simp] theorem State.setDp_pins (t : State) (v : Byte) : (t.setDp v).pins = t.pins := rfl
@[simp] theorem State.setDp_agent (t : State) (v : Byte) : (t.setDp v).agent = t.agent := rfl
@[simp] theorem State.setDp_platform (t : State) (v : Byte) : (t.setDp v).platform = t.platform := rfl
@[simp] theorem State.setDp_io (t : State) (v : Byte) : (t.setDp v).io = t.io := rfl
@[simp] theorem State.setDp_bus (t : State) (v : Byte) : (t.setDp v).bus = t.bus := rfl
@[simp] theorem State.setDp_freeCount (t : State) (v : Byte) : (t.setDp v).freeCount = t.freeCount := rfl

@[simp] theorem State.setCc_a (t : State) (v : Byte) : (t.setCc v).a = t.a := rfl
@[simp] theorem State.setCc_b (t : State) (v : Byte) : (t.setCc v).b = t.b := rfl
@[simp] theorem State.setCc_dp (t : State) (v : Byte) : (t.setCc v).dp = t.dp := rfl
@[simp] theorem State.setCc_cc (t : State) (v : Byte) : (t.setCc v).cc = v := rfl
@[simp] theorem State.setCc_x (t : State) (v : Byte) : (t.setCc v).x = t.x := rfl
@[simp] theorem State.setCc_y (t : State) (v : Byte) : (t.setCc v).y = t.y := rfl
@[simp] theorem State.setCc_u (t : State) (v : Byte) : (t.setCc v).u = t.u := rfl
@[simp] theorem State.setCc_s (t : State) (v : Byte) : (t.setCc v).s = t.s := rfl
@[simp] theorem State.setCc_pc (t : State) (v : Byte) : (t.setCc v).pc = t.pc := rfl
@[simp] theorem State.setCc_mem (t : State) (v : Byte) : (t.setCc v).mem = t.mem := rfl
@[simp] theorem State.setCc_nmiArmed (t : State) (v : Byte) : (t.setCc v).nmiArmed = t.nmiArmed := rfl
@[simp] theorem State.setCc_nmiPending (t : State) (v : Byte) : (t.setCc v).nmiPending = t.nmiPending := rfl
@[simp] theorem State.setCc_run (t : State) (v : Byte) : (t.setCc v).run = t.run := rfl
@[simp] theorem State.setCc_pins (t : State) (v : Byte) : (t.setCc v).pins = t.pins := rfl
@[simp] theorem State.setCc_agent (t : State) (v : Byte) : (t.setCc v).agent = t.agent := rfl
@[simp] theorem State.setCc_platform (t : State) (v : Byte) : (t.setCc v).platform = t.platform := rfl
@[simp] theorem State.setCc_io (t : State) (v : Byte) : (t.setCc v).io = t.io := rfl
@[simp] theorem State.setCc_bus (t : State) (v : Byte) : (t.setCc v).bus = t.bus := rfl
@[simp] theorem State.setCc_freeCount (t : State) (v : Byte) : (t.setCc v).freeCount = t.freeCount := rfl

@[simp] theorem State.setX_a (t : State) (v : Word) : (t.setX v).a = t.a := rfl
@[simp] theorem State.setX_b (t : State) (v : Word) : (t.setX v).b = t.b := rfl
@[simp] theorem State.setX_dp (t : State) (v : Word) : (t.setX v).dp = t.dp := rfl
@[simp] theorem State.setX_cc (t : State) (v : Word) : (t.setX v).cc = t.cc := rfl
@[simp] theorem State.setX_x (t : State) (v : Word) : (t.setX v).x = v := rfl
@[simp] theorem State.setX_y (t : State) (v : Word) : (t.setX v).y = t.y := rfl
@[simp] theorem State.setX_u (t : State) (v : Word) : (t.setX v).u = t.u := rfl
@[simp] theorem State.setX_s (t : State) (v : Word) : (t.setX v).s = t.s := rfl
@[simp] theorem State.setX_pc (t : State) (v : Word) : (t.setX v).pc = t.pc := rfl
@[simp] theorem State.setX_mem (t : State) (v : Word) : (t.setX v).mem = t.mem := rfl
@[simp] theorem State.setX_nmiArmed (t : State) (v : Word) : (t.setX v).nmiArmed = t.nmiArmed := rfl
@[simp] theorem State.setX_nmiPending (t : State) (v : Word) : (t.setX v).nmiPending = t.nmiPending := rfl
@[simp] theorem State.setX_run (t : State) (v : Word) : (t.setX v).run = t.run := rfl
@[simp] theorem State.setX_pins (t : State) (v : Word) : (t.setX v).pins = t.pins := rfl
@[simp] theorem State.setX_agent (t : State) (v : Word) : (t.setX v).agent = t.agent := rfl
@[simp] theorem State.setX_platform (t : State) (v : Word) : (t.setX v).platform = t.platform := rfl
@[simp] theorem State.setX_io (t : State) (v : Word) : (t.setX v).io = t.io := rfl
@[simp] theorem State.setX_bus (t : State) (v : Word) : (t.setX v).bus = t.bus := rfl
@[simp] theorem State.setX_freeCount (t : State) (v : Word) : (t.setX v).freeCount = t.freeCount := rfl

@[simp] theorem State.setY_a (t : State) (v : Word) : (t.setY v).a = t.a := rfl
@[simp] theorem State.setY_b (t : State) (v : Word) : (t.setY v).b = t.b := rfl
@[simp] theorem State.setY_dp (t : State) (v : Word) : (t.setY v).dp = t.dp := rfl
@[simp] theorem State.setY_cc (t : State) (v : Word) : (t.setY v).cc = t.cc := rfl
@[simp] theorem State.setY_x (t : State) (v : Word) : (t.setY v).x = t.x := rfl
@[simp] theorem State.setY_y (t : State) (v : Word) : (t.setY v).y = v := rfl
@[simp] theorem State.setY_u (t : State) (v : Word) : (t.setY v).u = t.u := rfl
@[simp] theorem State.setY_s (t : State) (v : Word) : (t.setY v).s = t.s := rfl
@[simp] theorem State.setY_pc (t : State) (v : Word) : (t.setY v).pc = t.pc := rfl
@[simp] theorem State.setY_mem (t : State) (v : Word) : (t.setY v).mem = t.mem := rfl
@[simp] theorem State.setY_nmiArmed (t : State) (v : Word) : (t.setY v).nmiArmed = t.nmiArmed := rfl
@[simp] theorem State.setY_nmiPending (t : State) (v : Word) : (t.setY v).nmiPending = t.nmiPending := rfl
@[simp] theorem State.setY_run (t : State) (v : Word) : (t.setY v).run = t.run := rfl
@[simp] theorem State.setY_pins (t : State) (v : Word) : (t.setY v).pins = t.pins := rfl
@[simp] theorem State.setY_agent (t : State) (v : Word) : (t.setY v).agent = t.agent := rfl
@[simp] theorem State.setY_platform (t : State) (v : Word) : (t.setY v).platform = t.platform := rfl
@[simp] theorem State.setY_io (t : State) (v : Word) : (t.setY v).io = t.io := rfl
@[simp] theorem State.setY_bus (t : State) (v : Word) : (t.setY v).bus = t.bus := rfl
@[simp] theorem State.setY_freeCount (t : State) (v : Word) : (t.setY v).freeCount = t.freeCount := rfl

@[simp] theorem State.setU_a (t : State) (v : Word) : (t.setU v).a = t.a := rfl
@[simp] theorem State.setU_b (t : State) (v : Word) : (t.setU v).b = t.b := rfl
@[simp] theorem State.setU_dp (t : State) (v : Word) : (t.setU v).dp = t.dp := rfl
@[simp] theorem State.setU_cc (t : State) (v : Word) : (t.setU v).cc = t.cc := rfl
@[simp] theorem State.setU_x (t : State) (v : Word) : (t.setU v).x = t.x := rfl
@[simp] theorem State.setU_y (t : State) (v : Word) : (t.setU v).y = t.y := rfl
@[simp] theorem State.setU_u (t : State) (v : Word) : (t.setU v).u = v := rfl
@[simp] theorem State.setU_s (t : State) (v : Word) : (t.setU v).s = t.s := rfl
@[simp] theorem State.setU_pc (t : State) (v : Word) : (t.setU v).pc = t.pc := rfl
@[simp] theorem State.setU_mem (t : State) (v : Word) : (t.setU v).mem = t.mem := rfl
@[simp] theorem State.setU_nmiArmed (t : State) (v : Word) : (t.setU v).nmiArmed = t.nmiArmed := rfl
@[simp] theorem State.setU_nmiPending (t : State) (v : Word) : (t.setU v).nmiPending = t.nmiPending := rfl
@[simp] theorem State.setU_run (t : State) (v : Word) : (t.setU v).run = t.run := rfl
@[simp] theorem State.setU_pins (t : State) (v : Word) : (t.setU v).pins = t.pins := rfl
@[simp] theorem State.setU_agent (t : State) (v : Word) : (t.setU v).agent = t.agent := rfl
@[simp] theorem State.setU_platform (t : State) (v : Word) : (t.setU v).platform = t.platform := rfl
@[simp] theorem State.setU_io (t : State) (v : Word) : (t.setU v).io = t.io := rfl
@[simp] theorem State.setU_bus (t : State) (v : Word) : (t.setU v).bus = t.bus := rfl
@[simp] theorem State.setU_freeCount (t : State) (v : Word) : (t.setU v).freeCount = t.freeCount := rfl

@[simp] theorem State.setS_a (t : State) (v : Word) : (t.setS v).a = t.a := rfl
@[simp] theorem State.setS_b (t : State) (v : Word) : (t.setS v).b = t.b := rfl
@[simp] theorem State.setS_dp (t : State) (v : Word) : (t.setS v).dp = t.dp := rfl
@[simp] theorem State.setS_cc (t : State) (v : Word) : (t.setS v).cc = t.cc := rfl
@[simp] theorem State.setS_x (t : State) (v : Word) : (t.setS v).x = t.x := rfl
@[simp] theorem State.setS_y (t : State) (v : Word) : (t.setS v).y = t.y := rfl
@[simp] theorem State.setS_u (t : State) (v : Word) : (t.setS v).u = t.u := rfl
@[simp] theorem State.setS_s (t : State) (v : Word) : (t.setS v).s = v := rfl
@[simp] theorem State.setS_pc (t : State) (v : Word) : (t.setS v).pc = t.pc := rfl
@[simp] theorem State.setS_mem (t : State) (v : Word) : (t.setS v).mem = t.mem := rfl
@[simp] theorem State.setS_nmiArmed (t : State) (v : Word) : (t.setS v).nmiArmed = t.nmiArmed := rfl
@[simp] theorem State.setS_nmiPending (t : State) (v : Word) : (t.setS v).nmiPending = t.nmiPending := rfl
@[simp] theorem State.setS_run (t : State) (v : Word) : (t.setS v).run = t.run := rfl
@[simp] theorem State.setS_pins (t : State) (v : Word) : (t.setS v).pins = t.pins := rfl
@[simp] theorem State.setS_agent (t : State) (v : Word) : (t.setS v).agent = t.agent := rfl
@[simp] theorem State.setS_platform (t : State) (v : Word) : (t.setS v).platform = t.platform := rfl
@[simp] theorem State.setS_io (t : State) (v : Word) : (t.setS v).io = t.io := rfl
@[simp] theorem State.setS_bus (t : State) (v : Word) : (t.setS v).bus = t.bus := rfl
@[simp] theorem State.setS_freeCount (t : State) (v : Word) : (t.setS v).freeCount = t.freeCount := rfl

@[simp] theorem State.setPc_a (t : State) (v : Word) : (t.setPc v).a = t.a := rfl
@[simp] theorem State.setPc_b (t : State) (v : Word) : (t.setPc v).b = t.b := rfl
@[simp] theorem State.setPc_dp (t : State) (v : Word) : (t.setPc v).dp = t.dp := rfl
@[simp] theorem State.setPc_cc (t : State) (v : Word) : (t.setPc v).cc = t.cc := rfl
@[simp] theorem State.setPc_x (t : State) (v : Word) : (t.setPc v).x = t.x := rfl
@[simp] theorem State.setPc_y (t : State) (v : Word) : (t.setPc v).y = t.y := rfl
@[simp] theorem State.setPc_u (t : State) (v : Word) : (t.setPc v).u = t.u := rfl
@[simp] theorem State.setPc_s (t : State) (v : Word) : (t.setPc v).s = t.s := rfl
@[simp] theorem State.setPc_pc (t : State) (v : Word) : (t.setPc v).pc = v := rfl
@[simp] theorem State.setPc_mem (t : State) (v : Word) : (t.setPc v).mem = t.mem := rfl
@[simp] theorem State.setPc_nmiArmed (t : State) (v : Word) : (t.setPc v).nmiArmed = t.nmiArmed := rfl
@[simp] theorem State.setPc_nmiPending (t : State) (v : Word) : (t.setPc v).nmiPending = t.nmiPending := rfl
@[simp] theorem State.setPc_run (t : State) (v : Word) : (t.setPc v).run = t.run := rfl
@[simp] theorem State.setPc_pins (t : State) (v : Word) : (t.setPc v).pins = t.pins := rfl
@[simp] theorem State.setPc_agent (t : State) (v : Word) : (t.setPc v).agent = t.agent := rfl
@[simp] theorem State.setPc_platform (t : State) (v : Word) : (t.setPc v).platform = t.platform := rfl
@[simp] theorem State.setPc_io (t : State) (v : Word) : (t.setPc v).io = t.io := rfl
@[simp] theorem State.setPc_bus (t : State) (v : Word) : (t.setPc v).bus = t.bus := rfl
@[simp] theorem State.setPc_freeCount (t : State) (v : Word) : (t.setPc v).freeCount = t.freeCount := rfl

@[simp] theorem State.setMem_a (t : State) (v : Memory) : (t.setMem v).a = t.a := rfl
@[simp] theorem State.setMem_b (t : State) (v : Memory) : (t.setMem v).b = t.b := rfl
@[simp] theorem State.setMem_dp (t : State) (v : Memory) : (t.setMem v).dp = t.dp := rfl
@[simp] theorem State.setMem_cc (t : State) (v : Memory) : (t.setMem v).cc = t.cc := rfl
@[simp] theorem State.setMem_x (t : State) (v : Memory) : (t.setMem v).x = t.x := rfl
@[simp] theorem State.setMem_y (t : State) (v : Memory) : (t.setMem v).y = t.y := rfl
@[simp] theorem State.setMem_u (t : State) (v : Memory) : (t.setMem v).u = t.u := rfl
@[simp] theorem State.setMem_s (t : State) (v : Memory) : (t.setMem v).s = t.s := rfl
@[simp] theorem State.setMem_pc (t : State) (v : Memory) : (t.setMem v).pc = t.pc := rfl
@[simp] theorem State.setMem_mem (t : State) (v : Memory) : (t.setMem v).mem = v := rfl
@[simp] theorem State.setMem_nmiArmed (t : State) (v : Memory) : (t.setMem v).nmiArmed = t.nmiArmed := rfl
@[simp] theorem State.setMem_nmiPending (t : State) (v : Memory) : (t.setMem v).nmiPending = t.nmiPending := rfl
@[simp] theorem State.setMem_run (t : State) (v : Memory) : (t.setMem v).run = t.run := rfl
@[simp] theorem State.setMem_pins (t : State) (v : Memory) : (t.setMem v).pins = t.pins := rfl
@[simp] theorem State.setMem_agent (t : State) (v : Memory) : (t.setMem v).agent = t.agent := rfl
@[simp] theorem State.setMem_platform (t : State) (v : Memory) : (t.setMem v).platform = t.platform := rfl
@[simp] theorem State.setMem_io (t : State) (v : Memory) : (t.setMem v).io = t.io := rfl
@[simp] theorem State.setMem_bus (t : State) (v : Memory) : (t.setMem v).bus = t.bus := rfl
@[simp] theorem State.setMem_freeCount (t : State) (v : Memory) : (t.setMem v).freeCount = t.freeCount := rfl

@[simp] theorem State.setNmiArmed_a (t : State) (v : Bool) : (t.setNmiArmed v).a = t.a := rfl
@[simp] theorem State.setNmiArmed_b (t : State) (v : Bool) : (t.setNmiArmed v).b = t.b := rfl
@[simp] theorem State.setNmiArmed_dp (t : State) (v : Bool) : (t.setNmiArmed v).dp = t.dp := rfl
@[simp] theorem State.setNmiArmed_cc (t : State) (v : Bool) : (t.setNmiArmed v).cc = t.cc := rfl
@[simp] theorem State.setNmiArmed_x (t : State) (v : Bool) : (t.setNmiArmed v).x = t.x := rfl
@[simp] theorem State.setNmiArmed_y (t : State) (v : Bool) : (t.setNmiArmed v).y = t.y := rfl
@[simp] theorem State.setNmiArmed_u (t : State) (v : Bool) : (t.setNmiArmed v).u = t.u := rfl
@[simp] theorem State.setNmiArmed_s (t : State) (v : Bool) : (t.setNmiArmed v).s = t.s := rfl
@[simp] theorem State.setNmiArmed_pc (t : State) (v : Bool) : (t.setNmiArmed v).pc = t.pc := rfl
@[simp] theorem State.setNmiArmed_mem (t : State) (v : Bool) : (t.setNmiArmed v).mem = t.mem := rfl
@[simp] theorem State.setNmiArmed_nmiArmed (t : State) (v : Bool) : (t.setNmiArmed v).nmiArmed = v := rfl
@[simp] theorem State.setNmiArmed_nmiPending (t : State) (v : Bool) : (t.setNmiArmed v).nmiPending = t.nmiPending := rfl
@[simp] theorem State.setNmiArmed_run (t : State) (v : Bool) : (t.setNmiArmed v).run = t.run := rfl
@[simp] theorem State.setNmiArmed_pins (t : State) (v : Bool) : (t.setNmiArmed v).pins = t.pins := rfl
@[simp] theorem State.setNmiArmed_agent (t : State) (v : Bool) : (t.setNmiArmed v).agent = t.agent := rfl
@[simp] theorem State.setNmiArmed_platform (t : State) (v : Bool) : (t.setNmiArmed v).platform = t.platform := rfl
@[simp] theorem State.setNmiArmed_io (t : State) (v : Bool) : (t.setNmiArmed v).io = t.io := rfl
@[simp] theorem State.setNmiArmed_bus (t : State) (v : Bool) : (t.setNmiArmed v).bus = t.bus := rfl
@[simp] theorem State.setNmiArmed_freeCount (t : State) (v : Bool) : (t.setNmiArmed v).freeCount = t.freeCount := rfl

@[simp] theorem State.setNmiPending_a (t : State) (v : Bool) : (t.setNmiPending v).a = t.a := rfl
@[simp] theorem State.setNmiPending_b (t : State) (v : Bool) : (t.setNmiPending v).b = t.b := rfl
@[simp] theorem State.setNmiPending_dp (t : State) (v : Bool) : (t.setNmiPending v).dp = t.dp := rfl
@[simp] theorem State.setNmiPending_cc (t : State) (v : Bool) : (t.setNmiPending v).cc = t.cc := rfl
@[simp] theorem State.setNmiPending_x (t : State) (v : Bool) : (t.setNmiPending v).x = t.x := rfl
@[simp] theorem State.setNmiPending_y (t : State) (v : Bool) : (t.setNmiPending v).y = t.y := rfl
@[simp] theorem State.setNmiPending_u (t : State) (v : Bool) : (t.setNmiPending v).u = t.u := rfl
@[simp] theorem State.setNmiPending_s (t : State) (v : Bool) : (t.setNmiPending v).s = t.s := rfl
@[simp] theorem State.setNmiPending_pc (t : State) (v : Bool) : (t.setNmiPending v).pc = t.pc := rfl
@[simp] theorem State.setNmiPending_mem (t : State) (v : Bool) : (t.setNmiPending v).mem = t.mem := rfl
@[simp] theorem State.setNmiPending_nmiArmed (t : State) (v : Bool) : (t.setNmiPending v).nmiArmed = t.nmiArmed := rfl
@[simp] theorem State.setNmiPending_nmiPending (t : State) (v : Bool) : (t.setNmiPending v).nmiPending = v := rfl
@[simp] theorem State.setNmiPending_run (t : State) (v : Bool) : (t.setNmiPending v).run = t.run := rfl
@[simp] theorem State.setNmiPending_pins (t : State) (v : Bool) : (t.setNmiPending v).pins = t.pins := rfl
@[simp] theorem State.setNmiPending_agent (t : State) (v : Bool) : (t.setNmiPending v).agent = t.agent := rfl
@[simp] theorem State.setNmiPending_platform (t : State) (v : Bool) : (t.setNmiPending v).platform = t.platform := rfl
@[simp] theorem State.setNmiPending_io (t : State) (v : Bool) : (t.setNmiPending v).io = t.io := rfl
@[simp] theorem State.setNmiPending_bus (t : State) (v : Bool) : (t.setNmiPending v).bus = t.bus := rfl
@[simp] theorem State.setNmiPending_freeCount (t : State) (v : Bool) : (t.setNmiPending v).freeCount = t.freeCount := rfl

@[simp] theorem State.setRun_a (t : State) (v : RunState) : (t.setRun v).a = t.a := rfl
@[simp] theorem State.setRun_b (t : State) (v : RunState) : (t.setRun v).b = t.b := rfl
@[simp] theorem State.setRun_dp (t : State) (v : RunState) : (t.setRun v).dp = t.dp := rfl
@[simp] theorem State.setRun_cc (t : State) (v : RunState) : (t.setRun v).cc = t.cc := rfl
@[simp] theorem State.setRun_x (t : State) (v : RunState) : (t.setRun v).x = t.x := rfl
@[simp] theorem State.setRun_y (t : State) (v : RunState) : (t.setRun v).y = t.y := rfl
@[simp] theorem State.setRun_u (t : State) (v : RunState) : (t.setRun v).u = t.u := rfl
@[simp] theorem State.setRun_s (t : State) (v : RunState) : (t.setRun v).s = t.s := rfl
@[simp] theorem State.setRun_pc (t : State) (v : RunState) : (t.setRun v).pc = t.pc := rfl
@[simp] theorem State.setRun_mem (t : State) (v : RunState) : (t.setRun v).mem = t.mem := rfl
@[simp] theorem State.setRun_nmiArmed (t : State) (v : RunState) : (t.setRun v).nmiArmed = t.nmiArmed := rfl
@[simp] theorem State.setRun_nmiPending (t : State) (v : RunState) : (t.setRun v).nmiPending = t.nmiPending := rfl
@[simp] theorem State.setRun_run (t : State) (v : RunState) : (t.setRun v).run = v := rfl
@[simp] theorem State.setRun_pins (t : State) (v : RunState) : (t.setRun v).pins = t.pins := rfl
@[simp] theorem State.setRun_agent (t : State) (v : RunState) : (t.setRun v).agent = t.agent := rfl
@[simp] theorem State.setRun_platform (t : State) (v : RunState) : (t.setRun v).platform = t.platform := rfl
@[simp] theorem State.setRun_io (t : State) (v : RunState) : (t.setRun v).io = t.io := rfl
@[simp] theorem State.setRun_bus (t : State) (v : RunState) : (t.setRun v).bus = t.bus := rfl
@[simp] theorem State.setRun_freeCount (t : State) (v : RunState) : (t.setRun v).freeCount = t.freeCount := rfl

@[simp] theorem State.setPins_a (t : State) (v : List Pins) : (t.setPins v).a = t.a := rfl
@[simp] theorem State.setPins_b (t : State) (v : List Pins) : (t.setPins v).b = t.b := rfl
@[simp] theorem State.setPins_dp (t : State) (v : List Pins) : (t.setPins v).dp = t.dp := rfl
@[simp] theorem State.setPins_cc (t : State) (v : List Pins) : (t.setPins v).cc = t.cc := rfl
@[simp] theorem State.setPins_x (t : State) (v : List Pins) : (t.setPins v).x = t.x := rfl
@[simp] theorem State.setPins_y (t : State) (v : List Pins) : (t.setPins v).y = t.y := rfl
@[simp] theorem State.setPins_u (t : State) (v : List Pins) : (t.setPins v).u = t.u := rfl
@[simp] theorem State.setPins_s (t : State) (v : List Pins) : (t.setPins v).s = t.s := rfl
@[simp] theorem State.setPins_pc (t : State) (v : List Pins) : (t.setPins v).pc = t.pc := rfl
@[simp] theorem State.setPins_mem (t : State) (v : List Pins) : (t.setPins v).mem = t.mem := rfl
@[simp] theorem State.setPins_nmiArmed (t : State) (v : List Pins) : (t.setPins v).nmiArmed = t.nmiArmed := rfl
@[simp] theorem State.setPins_nmiPending (t : State) (v : List Pins) : (t.setPins v).nmiPending = t.nmiPending := rfl
@[simp] theorem State.setPins_run (t : State) (v : List Pins) : (t.setPins v).run = t.run := rfl
@[simp] theorem State.setPins_pins (t : State) (v : List Pins) : (t.setPins v).pins = v := rfl
@[simp] theorem State.setPins_agent (t : State) (v : List Pins) : (t.setPins v).agent = t.agent := rfl
@[simp] theorem State.setPins_platform (t : State) (v : List Pins) : (t.setPins v).platform = t.platform := rfl
@[simp] theorem State.setPins_io (t : State) (v : List Pins) : (t.setPins v).io = t.io := rfl
@[simp] theorem State.setPins_bus (t : State) (v : List Pins) : (t.setPins v).bus = t.bus := rfl
@[simp] theorem State.setPins_freeCount (t : State) (v : List Pins) : (t.setPins v).freeCount = t.freeCount := rfl

@[simp] theorem State.setAgent_a (t : State) (v : List (List AgentWrite)) : (t.setAgent v).a = t.a := rfl
@[simp] theorem State.setAgent_b (t : State) (v : List (List AgentWrite)) : (t.setAgent v).b = t.b := rfl
@[simp] theorem State.setAgent_dp (t : State) (v : List (List AgentWrite)) : (t.setAgent v).dp = t.dp := rfl
@[simp] theorem State.setAgent_cc (t : State) (v : List (List AgentWrite)) : (t.setAgent v).cc = t.cc := rfl
@[simp] theorem State.setAgent_x (t : State) (v : List (List AgentWrite)) : (t.setAgent v).x = t.x := rfl
@[simp] theorem State.setAgent_y (t : State) (v : List (List AgentWrite)) : (t.setAgent v).y = t.y := rfl
@[simp] theorem State.setAgent_u (t : State) (v : List (List AgentWrite)) : (t.setAgent v).u = t.u := rfl
@[simp] theorem State.setAgent_s (t : State) (v : List (List AgentWrite)) : (t.setAgent v).s = t.s := rfl
@[simp] theorem State.setAgent_pc (t : State) (v : List (List AgentWrite)) : (t.setAgent v).pc = t.pc := rfl
@[simp] theorem State.setAgent_mem (t : State) (v : List (List AgentWrite)) : (t.setAgent v).mem = t.mem := rfl
@[simp] theorem State.setAgent_nmiArmed (t : State) (v : List (List AgentWrite)) : (t.setAgent v).nmiArmed = t.nmiArmed := rfl
@[simp] theorem State.setAgent_nmiPending (t : State) (v : List (List AgentWrite)) : (t.setAgent v).nmiPending = t.nmiPending := rfl
@[simp] theorem State.setAgent_run (t : State) (v : List (List AgentWrite)) : (t.setAgent v).run = t.run := rfl
@[simp] theorem State.setAgent_pins (t : State) (v : List (List AgentWrite)) : (t.setAgent v).pins = t.pins := rfl
@[simp] theorem State.setAgent_agent (t : State) (v : List (List AgentWrite)) : (t.setAgent v).agent = v := rfl
@[simp] theorem State.setAgent_platform (t : State) (v : List (List AgentWrite)) : (t.setAgent v).platform = t.platform := rfl
@[simp] theorem State.setAgent_io (t : State) (v : List (List AgentWrite)) : (t.setAgent v).io = t.io := rfl
@[simp] theorem State.setAgent_bus (t : State) (v : List (List AgentWrite)) : (t.setAgent v).bus = t.bus := rfl
@[simp] theorem State.setAgent_freeCount (t : State) (v : List (List AgentWrite)) : (t.setAgent v).freeCount = t.freeCount := rfl

@[simp] theorem State.setPlatform_a (t : State) (v : List Region) : (t.setPlatform v).a = t.a := rfl
@[simp] theorem State.setPlatform_b (t : State) (v : List Region) : (t.setPlatform v).b = t.b := rfl
@[simp] theorem State.setPlatform_dp (t : State) (v : List Region) : (t.setPlatform v).dp = t.dp := rfl
@[simp] theorem State.setPlatform_cc (t : State) (v : List Region) : (t.setPlatform v).cc = t.cc := rfl
@[simp] theorem State.setPlatform_x (t : State) (v : List Region) : (t.setPlatform v).x = t.x := rfl
@[simp] theorem State.setPlatform_y (t : State) (v : List Region) : (t.setPlatform v).y = t.y := rfl
@[simp] theorem State.setPlatform_u (t : State) (v : List Region) : (t.setPlatform v).u = t.u := rfl
@[simp] theorem State.setPlatform_s (t : State) (v : List Region) : (t.setPlatform v).s = t.s := rfl
@[simp] theorem State.setPlatform_pc (t : State) (v : List Region) : (t.setPlatform v).pc = t.pc := rfl
@[simp] theorem State.setPlatform_mem (t : State) (v : List Region) : (t.setPlatform v).mem = t.mem := rfl
@[simp] theorem State.setPlatform_nmiArmed (t : State) (v : List Region) : (t.setPlatform v).nmiArmed = t.nmiArmed := rfl
@[simp] theorem State.setPlatform_nmiPending (t : State) (v : List Region) : (t.setPlatform v).nmiPending = t.nmiPending := rfl
@[simp] theorem State.setPlatform_run (t : State) (v : List Region) : (t.setPlatform v).run = t.run := rfl
@[simp] theorem State.setPlatform_pins (t : State) (v : List Region) : (t.setPlatform v).pins = t.pins := rfl
@[simp] theorem State.setPlatform_agent (t : State) (v : List Region) : (t.setPlatform v).agent = t.agent := rfl
@[simp] theorem State.setPlatform_platform (t : State) (v : List Region) : (t.setPlatform v).platform = v := rfl
@[simp] theorem State.setPlatform_io (t : State) (v : List Region) : (t.setPlatform v).io = t.io := rfl
@[simp] theorem State.setPlatform_bus (t : State) (v : List Region) : (t.setPlatform v).bus = t.bus := rfl
@[simp] theorem State.setPlatform_freeCount (t : State) (v : List Region) : (t.setPlatform v).freeCount = t.freeCount := rfl

@[simp] theorem State.setIo_a (t : State) (v : List IoEvent) : (t.setIo v).a = t.a := rfl
@[simp] theorem State.setIo_b (t : State) (v : List IoEvent) : (t.setIo v).b = t.b := rfl
@[simp] theorem State.setIo_dp (t : State) (v : List IoEvent) : (t.setIo v).dp = t.dp := rfl
@[simp] theorem State.setIo_cc (t : State) (v : List IoEvent) : (t.setIo v).cc = t.cc := rfl
@[simp] theorem State.setIo_x (t : State) (v : List IoEvent) : (t.setIo v).x = t.x := rfl
@[simp] theorem State.setIo_y (t : State) (v : List IoEvent) : (t.setIo v).y = t.y := rfl
@[simp] theorem State.setIo_u (t : State) (v : List IoEvent) : (t.setIo v).u = t.u := rfl
@[simp] theorem State.setIo_s (t : State) (v : List IoEvent) : (t.setIo v).s = t.s := rfl
@[simp] theorem State.setIo_pc (t : State) (v : List IoEvent) : (t.setIo v).pc = t.pc := rfl
@[simp] theorem State.setIo_mem (t : State) (v : List IoEvent) : (t.setIo v).mem = t.mem := rfl
@[simp] theorem State.setIo_nmiArmed (t : State) (v : List IoEvent) : (t.setIo v).nmiArmed = t.nmiArmed := rfl
@[simp] theorem State.setIo_nmiPending (t : State) (v : List IoEvent) : (t.setIo v).nmiPending = t.nmiPending := rfl
@[simp] theorem State.setIo_run (t : State) (v : List IoEvent) : (t.setIo v).run = t.run := rfl
@[simp] theorem State.setIo_pins (t : State) (v : List IoEvent) : (t.setIo v).pins = t.pins := rfl
@[simp] theorem State.setIo_agent (t : State) (v : List IoEvent) : (t.setIo v).agent = t.agent := rfl
@[simp] theorem State.setIo_platform (t : State) (v : List IoEvent) : (t.setIo v).platform = t.platform := rfl
@[simp] theorem State.setIo_io (t : State) (v : List IoEvent) : (t.setIo v).io = v := rfl
@[simp] theorem State.setIo_bus (t : State) (v : List IoEvent) : (t.setIo v).bus = t.bus := rfl
@[simp] theorem State.setIo_freeCount (t : State) (v : List IoEvent) : (t.setIo v).freeCount = t.freeCount := rfl

@[simp] theorem State.setBus_a (t : State) (v : List BusCycle) : (t.setBus v).a = t.a := rfl
@[simp] theorem State.setBus_b (t : State) (v : List BusCycle) : (t.setBus v).b = t.b := rfl
@[simp] theorem State.setBus_dp (t : State) (v : List BusCycle) : (t.setBus v).dp = t.dp := rfl
@[simp] theorem State.setBus_cc (t : State) (v : List BusCycle) : (t.setBus v).cc = t.cc := rfl
@[simp] theorem State.setBus_x (t : State) (v : List BusCycle) : (t.setBus v).x = t.x := rfl
@[simp] theorem State.setBus_y (t : State) (v : List BusCycle) : (t.setBus v).y = t.y := rfl
@[simp] theorem State.setBus_u (t : State) (v : List BusCycle) : (t.setBus v).u = t.u := rfl
@[simp] theorem State.setBus_s (t : State) (v : List BusCycle) : (t.setBus v).s = t.s := rfl
@[simp] theorem State.setBus_pc (t : State) (v : List BusCycle) : (t.setBus v).pc = t.pc := rfl
@[simp] theorem State.setBus_mem (t : State) (v : List BusCycle) : (t.setBus v).mem = t.mem := rfl
@[simp] theorem State.setBus_nmiArmed (t : State) (v : List BusCycle) : (t.setBus v).nmiArmed = t.nmiArmed := rfl
@[simp] theorem State.setBus_nmiPending (t : State) (v : List BusCycle) : (t.setBus v).nmiPending = t.nmiPending := rfl
@[simp] theorem State.setBus_run (t : State) (v : List BusCycle) : (t.setBus v).run = t.run := rfl
@[simp] theorem State.setBus_pins (t : State) (v : List BusCycle) : (t.setBus v).pins = t.pins := rfl
@[simp] theorem State.setBus_agent (t : State) (v : List BusCycle) : (t.setBus v).agent = t.agent := rfl
@[simp] theorem State.setBus_platform (t : State) (v : List BusCycle) : (t.setBus v).platform = t.platform := rfl
@[simp] theorem State.setBus_io (t : State) (v : List BusCycle) : (t.setBus v).io = t.io := rfl
@[simp] theorem State.setBus_bus (t : State) (v : List BusCycle) : (t.setBus v).bus = v := rfl
@[simp] theorem State.setBus_freeCount (t : State) (v : List BusCycle) : (t.setBus v).freeCount = t.freeCount := rfl

@[simp] theorem State.setFreeCount_a (t : State) (v : Nat) : (t.setFreeCount v).a = t.a := rfl
@[simp] theorem State.setFreeCount_b (t : State) (v : Nat) : (t.setFreeCount v).b = t.b := rfl
@[simp] theorem State.setFreeCount_dp (t : State) (v : Nat) : (t.setFreeCount v).dp = t.dp := rfl
@[simp] theorem State.setFreeCount_cc (t : State) (v : Nat) : (t.setFreeCount v).cc = t.cc := rfl
@[simp] theorem State.setFreeCount_x (t : State) (v : Nat) : (t.setFreeCount v).x = t.x := rfl
@[simp] theorem State.setFreeCount_y (t : State) (v : Nat) : (t.setFreeCount v).y = t.y := rfl
@[simp] theorem State.setFreeCount_u (t : State) (v : Nat) : (t.setFreeCount v).u = t.u := rfl
@[simp] theorem State.setFreeCount_s (t : State) (v : Nat) : (t.setFreeCount v).s = t.s := rfl
@[simp] theorem State.setFreeCount_pc (t : State) (v : Nat) : (t.setFreeCount v).pc = t.pc := rfl
@[simp] theorem State.setFreeCount_mem (t : State) (v : Nat) : (t.setFreeCount v).mem = t.mem := rfl
@[simp] theorem State.setFreeCount_nmiArmed (t : State) (v : Nat) : (t.setFreeCount v).nmiArmed = t.nmiArmed := rfl
@[simp] theorem State.setFreeCount_nmiPending (t : State) (v : Nat) : (t.setFreeCount v).nmiPending = t.nmiPending := rfl
@[simp] theorem State.setFreeCount_run (t : State) (v : Nat) : (t.setFreeCount v).run = t.run := rfl
@[simp] theorem State.setFreeCount_pins (t : State) (v : Nat) : (t.setFreeCount v).pins = t.pins := rfl
@[simp] theorem State.setFreeCount_agent (t : State) (v : Nat) : (t.setFreeCount v).agent = t.agent := rfl
@[simp] theorem State.setFreeCount_platform (t : State) (v : Nat) : (t.setFreeCount v).platform = t.platform := rfl
@[simp] theorem State.setFreeCount_io (t : State) (v : Nat) : (t.setFreeCount v).io = t.io := rfl
@[simp] theorem State.setFreeCount_bus (t : State) (v : Nat) : (t.setFreeCount v).bus = t.bus := rfl
@[simp] theorem State.setFreeCount_freeCount (t : State) (v : Nat) : (t.setFreeCount v).freeCount = v := rfl

end Sys2Proof.Machine
end

