-- ==== Sys2Proof/Laws/Flags.lean ====
section
/-! SUPPORT. The laws of the condition code bits, of the free draws and of the sums and differences. -/

namespace Sys2Proof.Machine

/-! ## Bits of CC -/

/-- Each flag of a CC byte with one flag written. -/
theorem writeFlag_getLsbD (cc : Byte) (k j : Flag) (b : Bool) :
    (writeFlag cc k b).getLsbD j.bit = if j = k then b else cc.getLsbD j.bit := by
  cases b <;> cases k <;> cases j <;> simp [writeFlag, Flag.mask, Flag.bit]

/-- A CC byte is given by its eight flags. -/
theorem cc_ext {c d : Byte} (h : ∀ k : Flag, c.getLsbD k.bit = d.getLsbD k.bit) : c = d := by
  apply BitVec.eq_of_getLsbD_eq
  intro i hi
  have := h .c; have := h .v; have := h .z; have := h .n
  have := h .i; have := h .h; have := h .f; have := h .e
  match i, hi with
  | 0, _ | 1, _ | 2, _ | 3, _ | 4, _ | 5, _ | 6, _ | 7, _ => assumption

@[simp] theorem State.flag_setFlag (t : State) (k j : Flag) (b : Bool) :
    (t.setFlag k b).flag j = if j = k then b else t.flag j := by
  simp only [State.flag, State.setFlag, State.setCc_cc, writeFlag_getLsbD]

/-! ## What the flag updates leave alone -/

@[simp] theorem State.setFlag_a (t : State) (k : Flag) (b : Bool) : (t.setFlag k b).a = t.a := rfl
@[simp] theorem State.setFlag_b (t : State) (k : Flag) (b : Bool) : (t.setFlag k b).b = t.b := rfl
@[simp] theorem State.setFlag_dp (t : State) (k : Flag) (b : Bool) : (t.setFlag k b).dp = t.dp := rfl
@[simp] theorem State.setFlag_x (t : State) (k : Flag) (b : Bool) : (t.setFlag k b).x = t.x := rfl
@[simp] theorem State.setFlag_y (t : State) (k : Flag) (b : Bool) : (t.setFlag k b).y = t.y := rfl
@[simp] theorem State.setFlag_u (t : State) (k : Flag) (b : Bool) : (t.setFlag k b).u = t.u := rfl
@[simp] theorem State.setFlag_s (t : State) (k : Flag) (b : Bool) : (t.setFlag k b).s = t.s := rfl
@[simp] theorem State.setFlag_pc (t : State) (k : Flag) (b : Bool) : (t.setFlag k b).pc = t.pc := rfl
@[simp] theorem State.setFlag_mem (t : State) (k : Flag) (b : Bool) : (t.setFlag k b).mem = t.mem := rfl
@[simp] theorem State.setFlag_nmiArmed (t : State) (k : Flag) (b : Bool) : (t.setFlag k b).nmiArmed = t.nmiArmed := rfl
@[simp] theorem State.setFlag_nmiPending (t : State) (k : Flag) (b : Bool) : (t.setFlag k b).nmiPending = t.nmiPending := rfl
@[simp] theorem State.setFlag_run (t : State) (k : Flag) (b : Bool) : (t.setFlag k b).run = t.run := rfl
@[simp] theorem State.setFlag_pins (t : State) (k : Flag) (b : Bool) : (t.setFlag k b).pins = t.pins := rfl
@[simp] theorem State.setFlag_agent (t : State) (k : Flag) (b : Bool) : (t.setFlag k b).agent = t.agent := rfl
@[simp] theorem State.setFlag_platform (t : State) (k : Flag) (b : Bool) : (t.setFlag k b).platform = t.platform := rfl
@[simp] theorem State.setFlag_io (t : State) (k : Flag) (b : Bool) : (t.setFlag k b).io = t.io := rfl
@[simp] theorem State.setFlag_bus (t : State) (k : Flag) (b : Bool) : (t.setFlag k b).bus = t.bus := rfl
@[simp] theorem State.setFlag_freeCount (t : State) (k : Flag) (b : Bool) : (t.setFlag k b).freeCount = t.freeCount := rfl

@[simp] theorem State.freeFlag_a (t : State) (k : Flag) : (t.freeFlag k).a = t.a := rfl
@[simp] theorem State.freeFlag_b (t : State) (k : Flag) : (t.freeFlag k).b = t.b := rfl
@[simp] theorem State.freeFlag_dp (t : State) (k : Flag) : (t.freeFlag k).dp = t.dp := rfl
@[simp] theorem State.freeFlag_x (t : State) (k : Flag) : (t.freeFlag k).x = t.x := rfl
@[simp] theorem State.freeFlag_y (t : State) (k : Flag) : (t.freeFlag k).y = t.y := rfl
@[simp] theorem State.freeFlag_u (t : State) (k : Flag) : (t.freeFlag k).u = t.u := rfl
@[simp] theorem State.freeFlag_s (t : State) (k : Flag) : (t.freeFlag k).s = t.s := rfl
@[simp] theorem State.freeFlag_pc (t : State) (k : Flag) : (t.freeFlag k).pc = t.pc := rfl
@[simp] theorem State.freeFlag_mem (t : State) (k : Flag) : (t.freeFlag k).mem = t.mem := rfl
@[simp] theorem State.freeFlag_nmiArmed (t : State) (k : Flag) : (t.freeFlag k).nmiArmed = t.nmiArmed := rfl
@[simp] theorem State.freeFlag_nmiPending (t : State) (k : Flag) : (t.freeFlag k).nmiPending = t.nmiPending := rfl
@[simp] theorem State.freeFlag_run (t : State) (k : Flag) : (t.freeFlag k).run = t.run := rfl
@[simp] theorem State.freeFlag_pins (t : State) (k : Flag) : (t.freeFlag k).pins = t.pins := rfl
@[simp] theorem State.freeFlag_agent (t : State) (k : Flag) : (t.freeFlag k).agent = t.agent := rfl
@[simp] theorem State.freeFlag_platform (t : State) (k : Flag) : (t.freeFlag k).platform = t.platform := rfl
@[simp] theorem State.freeFlag_io (t : State) (k : Flag) : (t.freeFlag k).io = t.io := rfl
@[simp] theorem State.freeFlag_bus (t : State) (k : Flag) : (t.freeFlag k).bus = t.bus := rfl

@[simp] theorem drawFlag_a (t : State) : (drawFlag t).2.a = t.a := rfl
@[simp] theorem drawFlag_b (t : State) : (drawFlag t).2.b = t.b := rfl
@[simp] theorem drawFlag_dp (t : State) : (drawFlag t).2.dp = t.dp := rfl
@[simp] theorem drawFlag_x (t : State) : (drawFlag t).2.x = t.x := rfl
@[simp] theorem drawFlag_y (t : State) : (drawFlag t).2.y = t.y := rfl
@[simp] theorem drawFlag_u (t : State) : (drawFlag t).2.u = t.u := rfl
@[simp] theorem drawFlag_s (t : State) : (drawFlag t).2.s = t.s := rfl
@[simp] theorem drawFlag_pc (t : State) : (drawFlag t).2.pc = t.pc := rfl
@[simp] theorem drawFlag_mem (t : State) : (drawFlag t).2.mem = t.mem := rfl
@[simp] theorem drawFlag_nmiArmed (t : State) : (drawFlag t).2.nmiArmed = t.nmiArmed := rfl
@[simp] theorem drawFlag_nmiPending (t : State) : (drawFlag t).2.nmiPending = t.nmiPending := rfl
@[simp] theorem drawFlag_run (t : State) : (drawFlag t).2.run = t.run := rfl
@[simp] theorem drawFlag_pins (t : State) : (drawFlag t).2.pins = t.pins := rfl
@[simp] theorem drawFlag_agent (t : State) : (drawFlag t).2.agent = t.agent := rfl
@[simp] theorem drawFlag_platform (t : State) : (drawFlag t).2.platform = t.platform := rfl
@[simp] theorem drawFlag_io (t : State) : (drawFlag t).2.io = t.io := rfl
@[simp] theorem drawFlag_bus (t : State) : (drawFlag t).2.bus = t.bus := rfl
@[simp] theorem drawFlag_cc (t : State) : (drawFlag t).2.cc = t.cc := rfl

@[simp] theorem drawByte_a (t : State) : (drawByte t).2.a = t.a := rfl
@[simp] theorem drawByte_b (t : State) : (drawByte t).2.b = t.b := rfl
@[simp] theorem drawByte_dp (t : State) : (drawByte t).2.dp = t.dp := rfl
@[simp] theorem drawByte_x (t : State) : (drawByte t).2.x = t.x := rfl
@[simp] theorem drawByte_y (t : State) : (drawByte t).2.y = t.y := rfl
@[simp] theorem drawByte_u (t : State) : (drawByte t).2.u = t.u := rfl
@[simp] theorem drawByte_s (t : State) : (drawByte t).2.s = t.s := rfl
@[simp] theorem drawByte_pc (t : State) : (drawByte t).2.pc = t.pc := rfl
@[simp] theorem drawByte_mem (t : State) : (drawByte t).2.mem = t.mem := rfl
@[simp] theorem drawByte_nmiArmed (t : State) : (drawByte t).2.nmiArmed = t.nmiArmed := rfl
@[simp] theorem drawByte_nmiPending (t : State) : (drawByte t).2.nmiPending = t.nmiPending := rfl
@[simp] theorem drawByte_run (t : State) : (drawByte t).2.run = t.run := rfl
@[simp] theorem drawByte_pins (t : State) : (drawByte t).2.pins = t.pins := rfl
@[simp] theorem drawByte_agent (t : State) : (drawByte t).2.agent = t.agent := rfl
@[simp] theorem drawByte_platform (t : State) : (drawByte t).2.platform = t.platform := rfl
@[simp] theorem drawByte_io (t : State) : (drawByte t).2.io = t.io := rfl
@[simp] theorem drawByte_bus (t : State) : (drawByte t).2.bus = t.bus := rfl
@[simp] theorem drawByte_cc (t : State) : (drawByte t).2.cc = t.cc := rfl

@[simp] theorem State.flag_setA (t : State) (v : Byte) (k : Flag) : (t.setA v).flag k = t.flag k := rfl
@[simp] theorem State.flag_setB (t : State) (v : Byte) (k : Flag) : (t.setB v).flag k = t.flag k := rfl
@[simp] theorem State.flag_setDp (t : State) (v : Byte) (k : Flag) : (t.setDp v).flag k = t.flag k := rfl
@[simp] theorem State.flag_setX (t : State) (v : Word) (k : Flag) : (t.setX v).flag k = t.flag k := rfl
@[simp] theorem State.flag_setY (t : State) (v : Word) (k : Flag) : (t.setY v).flag k = t.flag k := rfl
@[simp] theorem State.flag_setU (t : State) (v : Word) (k : Flag) : (t.setU v).flag k = t.flag k := rfl
@[simp] theorem State.flag_setS (t : State) (v : Word) (k : Flag) : (t.setS v).flag k = t.flag k := rfl
@[simp] theorem State.flag_setPc (t : State) (v : Word) (k : Flag) : (t.setPc v).flag k = t.flag k := rfl
@[simp] theorem State.flag_setMem (t : State) (v : Memory) (k : Flag) : (t.setMem v).flag k = t.flag k := rfl
@[simp] theorem State.flag_setNmiArmed (t : State) (v : Bool) (k : Flag) : (t.setNmiArmed v).flag k = t.flag k := rfl
@[simp] theorem State.flag_setNmiPending (t : State) (v : Bool) (k : Flag) : (t.setNmiPending v).flag k = t.flag k := rfl
@[simp] theorem State.flag_setRun (t : State) (v : RunState) (k : Flag) : (t.setRun v).flag k = t.flag k := rfl
@[simp] theorem State.flag_setPins (t : State) (v : List Pins) (k : Flag) : (t.setPins v).flag k = t.flag k := rfl
@[simp] theorem State.flag_setAgent (t : State) (v : List (List AgentWrite)) (k : Flag) : (t.setAgent v).flag k = t.flag k := rfl
@[simp] theorem State.flag_setPlatform (t : State) (v : List Region) (k : Flag) : (t.setPlatform v).flag k = t.flag k := rfl
@[simp] theorem State.flag_setIo (t : State) (v : List IoEvent) (k : Flag) : (t.setIo v).flag k = t.flag k := rfl
@[simp] theorem State.flag_setFreeCount (t : State) (v : Nat) (k : Flag) : (t.setFreeCount v).flag k = t.flag k := rfl

/-- A free flag: the flag is the next draw, the others are kept. -/
@[simp] theorem State.flag_freeFlag (t : State) (k j : Flag) :
    (t.freeFlag k).flag j = if j = k then Config.freeFlag t.freeCount else t.flag j := by
  simp only [State.freeFlag, State.flag_setFlag]
  rfl

@[simp] theorem State.setNZ_a {w : Nat} (t : State) (r : BitVec w) : (t.setNZ r).a = t.a := by
  simp only [State.setNZ, State.setFlag_a]
@[simp] theorem State.setNZ_b {w : Nat} (t : State) (r : BitVec w) : (t.setNZ r).b = t.b := by
  simp only [State.setNZ, State.setFlag_b]
@[simp] theorem State.setNZ_dp {w : Nat} (t : State) (r : BitVec w) : (t.setNZ r).dp = t.dp := by
  simp only [State.setNZ, State.setFlag_dp]
@[simp] theorem State.setNZ_x {w : Nat} (t : State) (r : BitVec w) : (t.setNZ r).x = t.x := by
  simp only [State.setNZ, State.setFlag_x]
@[simp] theorem State.setNZ_y {w : Nat} (t : State) (r : BitVec w) : (t.setNZ r).y = t.y := by
  simp only [State.setNZ, State.setFlag_y]
@[simp] theorem State.setNZ_u {w : Nat} (t : State) (r : BitVec w) : (t.setNZ r).u = t.u := by
  simp only [State.setNZ, State.setFlag_u]
@[simp] theorem State.setNZ_s {w : Nat} (t : State) (r : BitVec w) : (t.setNZ r).s = t.s := by
  simp only [State.setNZ, State.setFlag_s]
@[simp] theorem State.setNZ_pc {w : Nat} (t : State) (r : BitVec w) : (t.setNZ r).pc = t.pc := by
  simp only [State.setNZ, State.setFlag_pc]
@[simp] theorem State.setNZ_mem {w : Nat} (t : State) (r : BitVec w) : (t.setNZ r).mem = t.mem := by
  simp only [State.setNZ, State.setFlag_mem]
@[simp] theorem State.setNZ_nmiArmed {w : Nat} (t : State) (r : BitVec w) : (t.setNZ r).nmiArmed = t.nmiArmed := by
  simp only [State.setNZ, State.setFlag_nmiArmed]
@[simp] theorem State.setNZ_nmiPending {w : Nat} (t : State) (r : BitVec w) : (t.setNZ r).nmiPending = t.nmiPending := by
  simp only [State.setNZ, State.setFlag_nmiPending]
@[simp] theorem State.setNZ_run {w : Nat} (t : State) (r : BitVec w) : (t.setNZ r).run = t.run := by
  simp only [State.setNZ, State.setFlag_run]
@[simp] theorem State.setNZ_pins {w : Nat} (t : State) (r : BitVec w) : (t.setNZ r).pins = t.pins := by
  simp only [State.setNZ, State.setFlag_pins]
@[simp] theorem State.setNZ_agent {w : Nat} (t : State) (r : BitVec w) : (t.setNZ r).agent = t.agent := by
  simp only [State.setNZ, State.setFlag_agent]
@[simp] theorem State.setNZ_platform {w : Nat} (t : State) (r : BitVec w) : (t.setNZ r).platform = t.platform := by
  simp only [State.setNZ, State.setFlag_platform]
@[simp] theorem State.setNZ_io {w : Nat} (t : State) (r : BitVec w) : (t.setNZ r).io = t.io := by
  simp only [State.setNZ, State.setFlag_io]
@[simp] theorem State.setNZ_bus {w : Nat} (t : State) (r : BitVec w) : (t.setNZ r).bus = t.bus := by
  simp only [State.setNZ, State.setFlag_bus]
@[simp] theorem State.setNZ_freeCount {w : Nat} (t : State) (r : BitVec w) : (t.setNZ r).freeCount = t.freeCount := by
  simp only [State.setNZ, State.setFlag_freeCount]

@[simp] theorem State.setNZV_a {w : Nat} (t : State) (r : BitVec w) (v : Bool) : (t.setNZV r v).a = t.a := by
  simp only [State.setNZV, State.setNZ_a, State.setFlag_a]
@[simp] theorem State.setNZV_b {w : Nat} (t : State) (r : BitVec w) (v : Bool) : (t.setNZV r v).b = t.b := by
  simp only [State.setNZV, State.setNZ_b, State.setFlag_b]
@[simp] theorem State.setNZV_dp {w : Nat} (t : State) (r : BitVec w) (v : Bool) : (t.setNZV r v).dp = t.dp := by
  simp only [State.setNZV, State.setNZ_dp, State.setFlag_dp]
@[simp] theorem State.setNZV_x {w : Nat} (t : State) (r : BitVec w) (v : Bool) : (t.setNZV r v).x = t.x := by
  simp only [State.setNZV, State.setNZ_x, State.setFlag_x]
@[simp] theorem State.setNZV_y {w : Nat} (t : State) (r : BitVec w) (v : Bool) : (t.setNZV r v).y = t.y := by
  simp only [State.setNZV, State.setNZ_y, State.setFlag_y]
@[simp] theorem State.setNZV_u {w : Nat} (t : State) (r : BitVec w) (v : Bool) : (t.setNZV r v).u = t.u := by
  simp only [State.setNZV, State.setNZ_u, State.setFlag_u]
@[simp] theorem State.setNZV_s {w : Nat} (t : State) (r : BitVec w) (v : Bool) : (t.setNZV r v).s = t.s := by
  simp only [State.setNZV, State.setNZ_s, State.setFlag_s]
@[simp] theorem State.setNZV_pc {w : Nat} (t : State) (r : BitVec w) (v : Bool) : (t.setNZV r v).pc = t.pc := by
  simp only [State.setNZV, State.setNZ_pc, State.setFlag_pc]
@[simp] theorem State.setNZV_mem {w : Nat} (t : State) (r : BitVec w) (v : Bool) : (t.setNZV r v).mem = t.mem := by
  simp only [State.setNZV, State.setNZ_mem, State.setFlag_mem]
@[simp] theorem State.setNZV_nmiArmed {w : Nat} (t : State) (r : BitVec w) (v : Bool) : (t.setNZV r v).nmiArmed = t.nmiArmed := by
  simp only [State.setNZV, State.setNZ_nmiArmed, State.setFlag_nmiArmed]
@[simp] theorem State.setNZV_nmiPending {w : Nat} (t : State) (r : BitVec w) (v : Bool) : (t.setNZV r v).nmiPending = t.nmiPending := by
  simp only [State.setNZV, State.setNZ_nmiPending, State.setFlag_nmiPending]
@[simp] theorem State.setNZV_run {w : Nat} (t : State) (r : BitVec w) (v : Bool) : (t.setNZV r v).run = t.run := by
  simp only [State.setNZV, State.setNZ_run, State.setFlag_run]
@[simp] theorem State.setNZV_pins {w : Nat} (t : State) (r : BitVec w) (v : Bool) : (t.setNZV r v).pins = t.pins := by
  simp only [State.setNZV, State.setNZ_pins, State.setFlag_pins]
@[simp] theorem State.setNZV_agent {w : Nat} (t : State) (r : BitVec w) (v : Bool) : (t.setNZV r v).agent = t.agent := by
  simp only [State.setNZV, State.setNZ_agent, State.setFlag_agent]
@[simp] theorem State.setNZV_platform {w : Nat} (t : State) (r : BitVec w) (v : Bool) : (t.setNZV r v).platform = t.platform := by
  simp only [State.setNZV, State.setNZ_platform, State.setFlag_platform]
@[simp] theorem State.setNZV_io {w : Nat} (t : State) (r : BitVec w) (v : Bool) : (t.setNZV r v).io = t.io := by
  simp only [State.setNZV, State.setNZ_io, State.setFlag_io]
@[simp] theorem State.setNZV_bus {w : Nat} (t : State) (r : BitVec w) (v : Bool) : (t.setNZV r v).bus = t.bus := by
  simp only [State.setNZV, State.setNZ_bus, State.setFlag_bus]
@[simp] theorem State.setNZV_freeCount {w : Nat} (t : State) (r : BitVec w) (v : Bool) : (t.setNZV r v).freeCount = t.freeCount := by
  simp only [State.setNZV, State.setNZ_freeCount, State.setFlag_freeCount]

@[simp] theorem State.setNZVC_a {w : Nat} (t : State) (r : BitVec w) (v c : Bool) : (t.setNZVC r v c).a = t.a := by
  simp only [State.setNZVC, State.setNZV_a, State.setFlag_a]
@[simp] theorem State.setNZVC_b {w : Nat} (t : State) (r : BitVec w) (v c : Bool) : (t.setNZVC r v c).b = t.b := by
  simp only [State.setNZVC, State.setNZV_b, State.setFlag_b]
@[simp] theorem State.setNZVC_dp {w : Nat} (t : State) (r : BitVec w) (v c : Bool) : (t.setNZVC r v c).dp = t.dp := by
  simp only [State.setNZVC, State.setNZV_dp, State.setFlag_dp]
@[simp] theorem State.setNZVC_x {w : Nat} (t : State) (r : BitVec w) (v c : Bool) : (t.setNZVC r v c).x = t.x := by
  simp only [State.setNZVC, State.setNZV_x, State.setFlag_x]
@[simp] theorem State.setNZVC_y {w : Nat} (t : State) (r : BitVec w) (v c : Bool) : (t.setNZVC r v c).y = t.y := by
  simp only [State.setNZVC, State.setNZV_y, State.setFlag_y]
@[simp] theorem State.setNZVC_u {w : Nat} (t : State) (r : BitVec w) (v c : Bool) : (t.setNZVC r v c).u = t.u := by
  simp only [State.setNZVC, State.setNZV_u, State.setFlag_u]
@[simp] theorem State.setNZVC_s {w : Nat} (t : State) (r : BitVec w) (v c : Bool) : (t.setNZVC r v c).s = t.s := by
  simp only [State.setNZVC, State.setNZV_s, State.setFlag_s]
@[simp] theorem State.setNZVC_pc {w : Nat} (t : State) (r : BitVec w) (v c : Bool) : (t.setNZVC r v c).pc = t.pc := by
  simp only [State.setNZVC, State.setNZV_pc, State.setFlag_pc]
@[simp] theorem State.setNZVC_mem {w : Nat} (t : State) (r : BitVec w) (v c : Bool) : (t.setNZVC r v c).mem = t.mem := by
  simp only [State.setNZVC, State.setNZV_mem, State.setFlag_mem]
@[simp] theorem State.setNZVC_nmiArmed {w : Nat} (t : State) (r : BitVec w) (v c : Bool) : (t.setNZVC r v c).nmiArmed = t.nmiArmed := by
  simp only [State.setNZVC, State.setNZV_nmiArmed, State.setFlag_nmiArmed]
@[simp] theorem State.setNZVC_nmiPending {w : Nat} (t : State) (r : BitVec w) (v c : Bool) : (t.setNZVC r v c).nmiPending = t.nmiPending := by
  simp only [State.setNZVC, State.setNZV_nmiPending, State.setFlag_nmiPending]
@[simp] theorem State.setNZVC_run {w : Nat} (t : State) (r : BitVec w) (v c : Bool) : (t.setNZVC r v c).run = t.run := by
  simp only [State.setNZVC, State.setNZV_run, State.setFlag_run]
@[simp] theorem State.setNZVC_pins {w : Nat} (t : State) (r : BitVec w) (v c : Bool) : (t.setNZVC r v c).pins = t.pins := by
  simp only [State.setNZVC, State.setNZV_pins, State.setFlag_pins]
@[simp] theorem State.setNZVC_agent {w : Nat} (t : State) (r : BitVec w) (v c : Bool) : (t.setNZVC r v c).agent = t.agent := by
  simp only [State.setNZVC, State.setNZV_agent, State.setFlag_agent]
@[simp] theorem State.setNZVC_platform {w : Nat} (t : State) (r : BitVec w) (v c : Bool) : (t.setNZVC r v c).platform = t.platform := by
  simp only [State.setNZVC, State.setNZV_platform, State.setFlag_platform]
@[simp] theorem State.setNZVC_io {w : Nat} (t : State) (r : BitVec w) (v c : Bool) : (t.setNZVC r v c).io = t.io := by
  simp only [State.setNZVC, State.setNZV_io, State.setFlag_io]
@[simp] theorem State.setNZVC_bus {w : Nat} (t : State) (r : BitVec w) (v c : Bool) : (t.setNZVC r v c).bus = t.bus := by
  simp only [State.setNZVC, State.setNZV_bus, State.setFlag_bus]
@[simp] theorem State.setNZVC_freeCount {w : Nat} (t : State) (r : BitVec w) (v c : Bool) : (t.setNZVC r v c).freeCount = t.freeCount := by
  simp only [State.setNZVC, State.setNZV_freeCount, State.setFlag_freeCount]

@[simp] theorem State.setNZC_a {w : Nat} (t : State) (r : BitVec w) (c : Bool) : (t.setNZC r c).a = t.a := by
  simp only [State.setNZC, State.setNZ_a, State.setFlag_a]
@[simp] theorem State.setNZC_b {w : Nat} (t : State) (r : BitVec w) (c : Bool) : (t.setNZC r c).b = t.b := by
  simp only [State.setNZC, State.setNZ_b, State.setFlag_b]
@[simp] theorem State.setNZC_dp {w : Nat} (t : State) (r : BitVec w) (c : Bool) : (t.setNZC r c).dp = t.dp := by
  simp only [State.setNZC, State.setNZ_dp, State.setFlag_dp]
@[simp] theorem State.setNZC_x {w : Nat} (t : State) (r : BitVec w) (c : Bool) : (t.setNZC r c).x = t.x := by
  simp only [State.setNZC, State.setNZ_x, State.setFlag_x]
@[simp] theorem State.setNZC_y {w : Nat} (t : State) (r : BitVec w) (c : Bool) : (t.setNZC r c).y = t.y := by
  simp only [State.setNZC, State.setNZ_y, State.setFlag_y]
@[simp] theorem State.setNZC_u {w : Nat} (t : State) (r : BitVec w) (c : Bool) : (t.setNZC r c).u = t.u := by
  simp only [State.setNZC, State.setNZ_u, State.setFlag_u]
@[simp] theorem State.setNZC_s {w : Nat} (t : State) (r : BitVec w) (c : Bool) : (t.setNZC r c).s = t.s := by
  simp only [State.setNZC, State.setNZ_s, State.setFlag_s]
@[simp] theorem State.setNZC_pc {w : Nat} (t : State) (r : BitVec w) (c : Bool) : (t.setNZC r c).pc = t.pc := by
  simp only [State.setNZC, State.setNZ_pc, State.setFlag_pc]
@[simp] theorem State.setNZC_mem {w : Nat} (t : State) (r : BitVec w) (c : Bool) : (t.setNZC r c).mem = t.mem := by
  simp only [State.setNZC, State.setNZ_mem, State.setFlag_mem]
@[simp] theorem State.setNZC_nmiArmed {w : Nat} (t : State) (r : BitVec w) (c : Bool) : (t.setNZC r c).nmiArmed = t.nmiArmed := by
  simp only [State.setNZC, State.setNZ_nmiArmed, State.setFlag_nmiArmed]
@[simp] theorem State.setNZC_nmiPending {w : Nat} (t : State) (r : BitVec w) (c : Bool) : (t.setNZC r c).nmiPending = t.nmiPending := by
  simp only [State.setNZC, State.setNZ_nmiPending, State.setFlag_nmiPending]
@[simp] theorem State.setNZC_run {w : Nat} (t : State) (r : BitVec w) (c : Bool) : (t.setNZC r c).run = t.run := by
  simp only [State.setNZC, State.setNZ_run, State.setFlag_run]
@[simp] theorem State.setNZC_pins {w : Nat} (t : State) (r : BitVec w) (c : Bool) : (t.setNZC r c).pins = t.pins := by
  simp only [State.setNZC, State.setNZ_pins, State.setFlag_pins]
@[simp] theorem State.setNZC_agent {w : Nat} (t : State) (r : BitVec w) (c : Bool) : (t.setNZC r c).agent = t.agent := by
  simp only [State.setNZC, State.setNZ_agent, State.setFlag_agent]
@[simp] theorem State.setNZC_platform {w : Nat} (t : State) (r : BitVec w) (c : Bool) : (t.setNZC r c).platform = t.platform := by
  simp only [State.setNZC, State.setNZ_platform, State.setFlag_platform]
@[simp] theorem State.setNZC_io {w : Nat} (t : State) (r : BitVec w) (c : Bool) : (t.setNZC r c).io = t.io := by
  simp only [State.setNZC, State.setNZ_io, State.setFlag_io]
@[simp] theorem State.setNZC_bus {w : Nat} (t : State) (r : BitVec w) (c : Bool) : (t.setNZC r c).bus = t.bus := by
  simp only [State.setNZC, State.setNZ_bus, State.setFlag_bus]
@[simp] theorem State.setNZC_freeCount {w : Nat} (t : State) (r : BitVec w) (c : Bool) : (t.setNZC r c).freeCount = t.freeCount := by
  simp only [State.setNZC, State.setNZ_freeCount, State.setFlag_freeCount]

@[simp] theorem State.setLogic_a {w : Nat} (t : State) (r : BitVec w) : (t.setLogic r).a = t.a := by
  simp only [State.setLogic, State.setNZV_a]
@[simp] theorem State.setLogic_b {w : Nat} (t : State) (r : BitVec w) : (t.setLogic r).b = t.b := by
  simp only [State.setLogic, State.setNZV_b]
@[simp] theorem State.setLogic_dp {w : Nat} (t : State) (r : BitVec w) : (t.setLogic r).dp = t.dp := by
  simp only [State.setLogic, State.setNZV_dp]
@[simp] theorem State.setLogic_x {w : Nat} (t : State) (r : BitVec w) : (t.setLogic r).x = t.x := by
  simp only [State.setLogic, State.setNZV_x]
@[simp] theorem State.setLogic_y {w : Nat} (t : State) (r : BitVec w) : (t.setLogic r).y = t.y := by
  simp only [State.setLogic, State.setNZV_y]
@[simp] theorem State.setLogic_u {w : Nat} (t : State) (r : BitVec w) : (t.setLogic r).u = t.u := by
  simp only [State.setLogic, State.setNZV_u]
@[simp] theorem State.setLogic_s {w : Nat} (t : State) (r : BitVec w) : (t.setLogic r).s = t.s := by
  simp only [State.setLogic, State.setNZV_s]
@[simp] theorem State.setLogic_pc {w : Nat} (t : State) (r : BitVec w) : (t.setLogic r).pc = t.pc := by
  simp only [State.setLogic, State.setNZV_pc]
@[simp] theorem State.setLogic_mem {w : Nat} (t : State) (r : BitVec w) : (t.setLogic r).mem = t.mem := by
  simp only [State.setLogic, State.setNZV_mem]
@[simp] theorem State.setLogic_nmiArmed {w : Nat} (t : State) (r : BitVec w) : (t.setLogic r).nmiArmed = t.nmiArmed := by
  simp only [State.setLogic, State.setNZV_nmiArmed]
@[simp] theorem State.setLogic_nmiPending {w : Nat} (t : State) (r : BitVec w) : (t.setLogic r).nmiPending = t.nmiPending := by
  simp only [State.setLogic, State.setNZV_nmiPending]
@[simp] theorem State.setLogic_run {w : Nat} (t : State) (r : BitVec w) : (t.setLogic r).run = t.run := by
  simp only [State.setLogic, State.setNZV_run]
@[simp] theorem State.setLogic_pins {w : Nat} (t : State) (r : BitVec w) : (t.setLogic r).pins = t.pins := by
  simp only [State.setLogic, State.setNZV_pins]
@[simp] theorem State.setLogic_agent {w : Nat} (t : State) (r : BitVec w) : (t.setLogic r).agent = t.agent := by
  simp only [State.setLogic, State.setNZV_agent]
@[simp] theorem State.setLogic_platform {w : Nat} (t : State) (r : BitVec w) : (t.setLogic r).platform = t.platform := by
  simp only [State.setLogic, State.setNZV_platform]
@[simp] theorem State.setLogic_io {w : Nat} (t : State) (r : BitVec w) : (t.setLogic r).io = t.io := by
  simp only [State.setLogic, State.setNZV_io]
@[simp] theorem State.setLogic_bus {w : Nat} (t : State) (r : BitVec w) : (t.setLogic r).bus = t.bus := by
  simp only [State.setLogic, State.setNZV_bus]
@[simp] theorem State.setLogic_freeCount {w : Nat} (t : State) (r : BitVec w) : (t.setLogic r).freeCount = t.freeCount := by
  simp only [State.setLogic, State.setNZV_freeCount]

/-! ## What the flag updates write -/

@[simp] theorem State.flag_setNZ {w : Nat} (t : State) (r : BitVec w) (j : Flag) :
    (t.setNZ r).flag j = if j = .z then r == 0#w else if j = .n then r.msb else t.flag j := by
  simp only [State.setNZ, State.flag_setFlag]

@[simp] theorem State.flag_setNZV {w : Nat} (t : State) (r : BitVec w) (v : Bool) (j : Flag) :
    (t.setNZV r v).flag j =
      if j = .v then v else if j = .z then r == 0#w else if j = .n then r.msb else t.flag j := by
  simp only [State.setNZV, State.flag_setFlag, State.flag_setNZ]

@[simp] theorem State.flag_setNZVC {w : Nat} (t : State) (r : BitVec w) (v c : Bool) (j : Flag) :
    (t.setNZVC r v c).flag j =
      if j = .c then c else if j = .v then v else if j = .z then r == 0#w
      else if j = .n then r.msb else t.flag j := by
  simp only [State.setNZVC, State.flag_setFlag, State.flag_setNZV]

@[simp] theorem State.flag_setNZC {w : Nat} (t : State) (r : BitVec w) (c : Bool) (j : Flag) :
    (t.setNZC r c).flag j =
      if j = .c then c else if j = .z then r == 0#w else if j = .n then r.msb else t.flag j := by
  simp only [State.setNZC, State.flag_setFlag, State.flag_setNZ]

@[simp] theorem State.flag_setLogic {w : Nat} (t : State) (r : BitVec w) (j : Flag) :
    (t.setLogic r).flag j =
      if j = .v then false else if j = .z then r == 0#w else if j = .n then r.msb else t.flag j := by
  simp only [State.setLogic, State.flag_setNZV]

/-! ## Sums and differences -/

theorem addBits_r {w : Nat} (a b : BitVec w) (cin : Bool) :
    (addBits a b cin).r = a + b + BitVec.ofNat w cin.toNat := by
  apply BitVec.eq_of_toNat_eq
  simp [addBits, BitVec.toNat_add, BitVec.toNat_ofNat]

theorem addBits_c {w : Nat} (a b : BitVec w) (cin : Bool) :
    (addBits a b cin).c = decide (2 ^ w ≤ a.toNat + b.toNat + cin.toNat) := rfl

theorem subBits_c {w : Nat} (a b : BitVec w) (bin : Bool) :
    (subBits a b bin).c = decide (a.toNat < b.toNat + bin.toNat) := by
  simp only [subBits]
  apply decide_eq_decide.mpr
  omega

theorem subBits_r {w : Nat} (a b : BitVec w) (bin : Bool) :
    (subBits a b bin).r = a - b - BitVec.ofNat w bin.toNat := by
  have h : ∀ x y : Int, BitVec.ofInt w (x - y) = BitVec.ofInt w x - BitVec.ofInt w y := fun x y => by
    rw [Int.sub_eq_add_neg, BitVec.ofInt_add, BitVec.ofInt_neg, BitVec.sub_eq_add_neg]
  simp only [subBits, h, BitVec.ofInt_natCast, BitVec.ofNat_toNat, BitVec.setWidth_eq]

/-- The overflow of a sum: the sum of the operands read as signed numbers lies outside the signed range (R170, R250). -/
theorem addBits_v {w : Nat} (a b : BitVec (w + 1)) (cin : Bool) :
    (addBits a b cin).v = true ↔
      a.toInt + b.toInt + (cin.toNat : Int) < -(2 ^ w : Nat) ∨ (2 ^ w : Nat) ≤ a.toInt + b.toInt + (cin.toNat : Int) := by
  have ha := a.isLt; have hb := b.isLt
  have h2 : 2 ^ (w + 1) = 2 * 2 ^ w := by rw [Nat.pow_succ]; omega
  have hc : cin.toNat ≤ 1 := by cases cin <;> simp
  have hp : 0 < 2 ^ w := Nat.two_pow_pos w
  simp only [addBits, Bool.and_eq_true, beq_iff_eq, bne_iff_ne, BitVec.msb_eq_decide, BitVec.toNat_ofNat,
    BitVec.toInt_eq_toNat_cond, Nat.add_sub_cancel, ne_eq, decide_eq_decide]
  rw [h2] at ha hb ⊢
  generalize 2 ^ w = p at *
  generalize a.toNat = x at *
  generalize b.toNat = y at *
  generalize cin.toNat = c at *
  have hm : (x + y + c) % (2 * p) = if x + y + c < 2 * p then x + y + c else x + y + c - 2 * p := by
    split
    · exact Nat.mod_eq_of_lt ‹_›
    · rw [Nat.mod_eq_sub_mod (by omega), Nat.mod_eq_of_lt (by omega)]
  rw [hm]
  split <;> split <;> split <;> omega

/-- The overflow of a difference: the difference of the operands read as signed numbers lies outside the signed range
(R171, R251). -/
theorem subBits_v {w : Nat} (a b : BitVec (w + 1)) (bin : Bool) :
    (subBits a b bin).v = true ↔
      a.toInt - b.toInt - (bin.toNat : Int) < -(2 ^ w : Nat) ∨ (2 ^ w : Nat) ≤ a.toInt - b.toInt - (bin.toNat : Int) := by
  have ha := a.isLt; have hb := b.isLt
  have h2 : 2 ^ (w + 1) = 2 * 2 ^ w := by rw [Nat.pow_succ]; omega
  have hc : bin.toNat ≤ 1 := by cases bin <;> simp
  have hp : 0 < 2 ^ w := Nat.two_pow_pos w
  simp only [subBits, Bool.and_eq_true, bne_iff_ne, BitVec.msb_eq_decide, BitVec.toNat_ofInt,
    BitVec.toInt_eq_toNat_cond, Nat.add_sub_cancel, ne_eq, decide_eq_decide]
  rw [h2] at ha hb ⊢
  generalize 2 ^ w = p at *
  generalize a.toNat = x at *
  generalize b.toNat = y at *
  generalize bin.toNat = c at *
  have hm : ((x : Int) - y - c) % ((2 * p : Nat) : Int) =
      if (y : Int) + c ≤ x then (x : Int) - y - c else (x : Int) - y - c + 2 * p := by
    split
    · exact Int.emod_eq_of_lt (by omega) (by omega)
    · rw [← Int.add_emod_right, Int.emod_eq_of_lt (by omega) (by omega)]; simp
  rw [hm]
  split <;> split <;> split <;> omega

end Sys2Proof.Machine
end

