-- ==== Sys2Proof/Laws/Access.lean ====
section
/-! SUPPORT. What an access to memory can do, once for each shared operation: it changes no register, no latch and not
the run state; memory keeps its canonical form; with no other bus master it changes only the bytes it stores to. -/

namespace Sys2Proof.Machine

/-! ## Peek and poke -/

theorem State.peek_poke_other (t : State) {a b : Word} (v : Byte) (h : b ≠ a) : (t.poke a v).peek b = t.peek b := by
  have : b.toNat ≠ a.toNat := fun e => h (BitVec.eq_of_toNat_eq e)
  simp [State.peek, State.poke, Memory.read_write_other _ _ this]

theorem State.peek_poke_same (t : State) (a : Word) (v : Byte) (h : Memory.wf t.mem = true) :
    (t.poke a v).peek a = v := by
  simp only [State.peek, State.poke, State.setMem_mem]
  exact Memory.read_write_same h _ _

theorem State.wf_poke (t : State) (a : Word) (v : Byte) (h : Memory.wf t.mem = true) :
    Memory.wf (t.poke a v).mem = true :=
  Memory.write_wf h v (by simpa [Memory.size] using a.isLt)

/-! ## A cycle on the record of the bus -/

@[simp] theorem recordCycle_a (c : BusCycle) (t : State) : (recordCycle c t).a = t.a := rfl
@[simp] theorem recordCycle_b (c : BusCycle) (t : State) : (recordCycle c t).b = t.b := rfl
@[simp] theorem recordCycle_dp (c : BusCycle) (t : State) : (recordCycle c t).dp = t.dp := rfl
@[simp] theorem recordCycle_cc (c : BusCycle) (t : State) : (recordCycle c t).cc = t.cc := rfl
@[simp] theorem recordCycle_x (c : BusCycle) (t : State) : (recordCycle c t).x = t.x := rfl
@[simp] theorem recordCycle_y (c : BusCycle) (t : State) : (recordCycle c t).y = t.y := rfl
@[simp] theorem recordCycle_u (c : BusCycle) (t : State) : (recordCycle c t).u = t.u := rfl
@[simp] theorem recordCycle_s (c : BusCycle) (t : State) : (recordCycle c t).s = t.s := rfl
@[simp] theorem recordCycle_pc (c : BusCycle) (t : State) : (recordCycle c t).pc = t.pc := rfl
@[simp] theorem recordCycle_mem (c : BusCycle) (t : State) : (recordCycle c t).mem = t.mem := rfl
@[simp] theorem recordCycle_nmiArmed (c : BusCycle) (t : State) : (recordCycle c t).nmiArmed = t.nmiArmed := rfl
@[simp] theorem recordCycle_nmiPending (c : BusCycle) (t : State) : (recordCycle c t).nmiPending = t.nmiPending := rfl
@[simp] theorem recordCycle_run (c : BusCycle) (t : State) : (recordCycle c t).run = t.run := rfl
@[simp] theorem recordCycle_pins (c : BusCycle) (t : State) : (recordCycle c t).pins = t.pins := rfl
@[simp] theorem recordCycle_agent (c : BusCycle) (t : State) : (recordCycle c t).agent = t.agent := rfl
@[simp] theorem recordCycle_platform (c : BusCycle) (t : State) : (recordCycle c t).platform = t.platform := rfl
@[simp] theorem recordCycle_io (c : BusCycle) (t : State) : (recordCycle c t).io = t.io := rfl
@[simp] theorem recordCycle_freeCount (c : BusCycle) (t : State) : (recordCycle c t).freeCount = t.freeCount := rfl
@[simp] theorem recordCycle_bus (c : BusCycle) (t : State) : (recordCycle c t).bus = t.bus ++ [c] := rfl
@[simp] theorem recordCycle_flag (c : BusCycle) (t : State) (k : Flag) : (recordCycle c t).flag k = t.flag k := rfl
@[simp] theorem recordCycle_kindAt (c : BusCycle) (t : State) (w : Word) : (recordCycle c t).kindAt w = t.kindAt w := rfl
@[simp] theorem recordCycle_peek (c : BusCycle) (t : State) (w : Word) : (recordCycle c t).peek w = t.peek w := rfl
@[simp] theorem recordCycle_ptr (c : BusCycle) (t : State) (r : Ptr) : (recordCycle c t).ptr r = t.ptr r := by
  cases r <;> rfl
@[simp] theorem recordCycle_acc (c : BusCycle) (t : State) (r : Acc) : (recordCycle c t).acc r = t.acc r := by
  cases r <;> rfl

/-! ## One access is one change of the memory, the other master's schedule, the two records and the draws -/

/-- The state with the five fields an access may change replaced. -/
def withBus (t : State) (m : Memory) (ag : List (List AgentWrite)) (io : List IoEvent) (bs : List BusCycle) (n : Nat) : State :=
  { t with mem := m, agent := ag, io := io, bus := bs, freeCount := n }

theorem withBus_self (t : State) : t = withBus t t.mem t.agent t.io t.bus t.freeCount := rfl

@[simp] theorem withBus_a (t : State) (m : Memory) (ag : List (List AgentWrite)) (io : List IoEvent) (bs : List BusCycle) (n : Nat) :
    (withBus t m ag io bs n).a = t.a := rfl
@[simp] theorem withBus_b (t : State) (m : Memory) (ag : List (List AgentWrite)) (io : List IoEvent) (bs : List BusCycle) (n : Nat) :
    (withBus t m ag io bs n).b = t.b := rfl
@[simp] theorem withBus_dp (t : State) (m : Memory) (ag : List (List AgentWrite)) (io : List IoEvent) (bs : List BusCycle) (n : Nat) :
    (withBus t m ag io bs n).dp = t.dp := rfl
@[simp] theorem withBus_cc (t : State) (m : Memory) (ag : List (List AgentWrite)) (io : List IoEvent) (bs : List BusCycle) (n : Nat) :
    (withBus t m ag io bs n).cc = t.cc := rfl
@[simp] theorem withBus_x (t : State) (m : Memory) (ag : List (List AgentWrite)) (io : List IoEvent) (bs : List BusCycle) (n : Nat) :
    (withBus t m ag io bs n).x = t.x := rfl
@[simp] theorem withBus_y (t : State) (m : Memory) (ag : List (List AgentWrite)) (io : List IoEvent) (bs : List BusCycle) (n : Nat) :
    (withBus t m ag io bs n).y = t.y := rfl
@[simp] theorem withBus_u (t : State) (m : Memory) (ag : List (List AgentWrite)) (io : List IoEvent) (bs : List BusCycle) (n : Nat) :
    (withBus t m ag io bs n).u = t.u := rfl
@[simp] theorem withBus_s (t : State) (m : Memory) (ag : List (List AgentWrite)) (io : List IoEvent) (bs : List BusCycle) (n : Nat) :
    (withBus t m ag io bs n).s = t.s := rfl
@[simp] theorem withBus_pc (t : State) (m : Memory) (ag : List (List AgentWrite)) (io : List IoEvent) (bs : List BusCycle) (n : Nat) :
    (withBus t m ag io bs n).pc = t.pc := rfl
@[simp] theorem withBus_nmiArmed (t : State) (m : Memory) (ag : List (List AgentWrite)) (io : List IoEvent) (bs : List BusCycle) (n : Nat) :
    (withBus t m ag io bs n).nmiArmed = t.nmiArmed := rfl
@[simp] theorem withBus_nmiPending (t : State) (m : Memory) (ag : List (List AgentWrite)) (io : List IoEvent) (bs : List BusCycle) (n : Nat) :
    (withBus t m ag io bs n).nmiPending = t.nmiPending := rfl
@[simp] theorem withBus_run (t : State) (m : Memory) (ag : List (List AgentWrite)) (io : List IoEvent) (bs : List BusCycle) (n : Nat) :
    (withBus t m ag io bs n).run = t.run := rfl
@[simp] theorem withBus_pins (t : State) (m : Memory) (ag : List (List AgentWrite)) (io : List IoEvent) (bs : List BusCycle) (n : Nat) :
    (withBus t m ag io bs n).pins = t.pins := rfl
@[simp] theorem withBus_platform (t : State) (m : Memory) (ag : List (List AgentWrite)) (io : List IoEvent) (bs : List BusCycle) (n : Nat) :
    (withBus t m ag io bs n).platform = t.platform := rfl

@[simp] theorem withBus_withBus (t : State) (m m' : Memory) (ag ag' : List (List AgentWrite)) (io io' : List IoEvent)
    (bs bs' : List BusCycle) (n n' : Nat) :
    withBus (withBus t m ag io bs n) m' ag' io' bs' n' = withBus t m' ag' io' bs' n' := rfl

theorem foldl_agentWrite_shape (batch : List AgentWrite) (t : State) : ∃ m, batch.foldl agentWrite t = t.setMem m := by
  induction batch generalizing t with
  | nil => exact ⟨t.mem, rfl⟩
  | cons w rest ih =>
    simp only [List.foldl_cons]
    obtain ⟨m, hm⟩ := ih (agentWrite t w)
    refine ⟨m, hm.trans ?_⟩
    unfold agentWrite
    split <;> rfl

/-- The other master's turn changes memory, its own schedule and the record of the bus only. -/
theorem agentTurn_shape (t : State) : ∃ m ag bs, agentTurn t = withBus t m ag t.io bs t.freeCount := by
  unfold agentTurn
  split
  · exact ⟨t.mem, t.agent, t.bus, rfl⟩
  · exact ⟨t.mem, _, t.bus, rfl⟩
  · rename_i w rest later h
    obtain ⟨m, hm⟩ := foldl_agentWrite_shape (w :: rest) t
    exact ⟨m, later, _, by rw [hm]; rfl⟩

/-- The platform's answer changes at most the record of devices and the draws. -/
theorem platformRead_shape (a : Word) (t : State) :
    ∃ io n, (platformRead a t).2 = withBus t t.mem t.agent io t.bus n := by
  unfold platformRead
  split <;> exact ⟨_, _, rfl⟩

/-- The platform takes a write into memory or into the record of devices, or drops it. -/
theorem platformWrite_shape (a : Word) (v : Byte) (t : State) :
    ∃ m io, platformWrite a v t = withBus t m t.agent io t.bus t.freeCount := by
  unfold platformWrite
  split
  · exact ⟨Memory.write t.mem a.toNat v, t.io, rfl⟩
  · exact ⟨t.mem, t.io, rfl⟩
  · exact ⟨t.mem, t.io, rfl⟩
  · exact ⟨t.mem, t.io ++ [.write a v], rfl⟩

/-- A read changes at most what a bus access may change. -/
theorem readByteAs_shape (c : Word → Byte → BusCycle) (a : Word) (t : State) :
    ∃ m ag io bs n, (readByteAs c a t).2 = withBus t m ag io bs n := by
  obtain ⟨m, ag, bs, h⟩ := agentTurn_shape t
  obtain ⟨io, n, h'⟩ := platformRead_shape a (agentTurn t)
  exact ⟨m, ag, io, _, n, by unfold readByteAs recordCycle; simp only; rw [h', h]; rfl⟩

theorem readByte_shape (a : Word) (t : State) : ∃ m ag io bs n, (readByte a t).2 = withBus t m ag io bs n :=
  readByteAs_shape .read a t

/-- A write changes at most what a bus access may change. -/
theorem writeByte_shape (a : Word) (v : Byte) (t : State) : ∃ m ag io bs n, writeByte a v t = withBus t m ag io bs n := by
  obtain ⟨m, ag, bs, h⟩ := agentTurn_shape t
  obtain ⟨m', io, h'⟩ := platformWrite_shape a v (agentTurn t)
  exact ⟨m', ag, io, _, t.freeCount, by unfold writeByte recordCycle; rw [h', h]; rfl⟩

theorem readWordAs_shape (c : Word → Byte → BusCycle) (a : Word) (t : State) :
    ∃ m ag io bs n, (readWordAs c a t).2 = withBus t m ag io bs n := by
  obtain ⟨m, ag, io, bs, n, h⟩ := readByteAs_shape c a t
  obtain ⟨m', ag', io', bs', n', h'⟩ := readByteAs_shape c (a + 1) (readByteAs c a t).2
  exact ⟨m', ag', io', bs', n', by unfold readWordAs; simp only; rw [h', h, withBus_withBus]⟩

theorem readWord_shape (a : Word) (t : State) : ∃ m ag io bs n, (readWord a t).2 = withBus t m ag io bs n :=
  readWordAs_shape .read a t

theorem writeWord_shape (a : Word) (v : Word) (t : State) : ∃ m ag io bs n, writeWord a v t = withBus t m ag io bs n := by
  obtain ⟨m, ag, io, bs, n, h⟩ := writeByte_shape a (highByte v) t
  obtain ⟨m', ag', io', bs', n', h'⟩ := writeByte_shape (a + 1) (lowByte v) (writeByte a (highByte v) t)
  exact ⟨m', ag', io', bs', n', by unfold writeWord; rw [h', h, withBus_withBus]⟩

/-! ## What an access leaves alone, field by field -/

@[simp] theorem agentTurn_a (t : State) : (agentTurn t).a = t.a := by
  obtain ⟨m, ag, bs, h⟩ := agentTurn_shape t; rw [h, withBus_a]
@[simp] theorem agentTurn_b (t : State) : (agentTurn t).b = t.b := by
  obtain ⟨m, ag, bs, h⟩ := agentTurn_shape t; rw [h, withBus_b]
@[simp] theorem agentTurn_dp (t : State) : (agentTurn t).dp = t.dp := by
  obtain ⟨m, ag, bs, h⟩ := agentTurn_shape t; rw [h, withBus_dp]
@[simp] theorem agentTurn_cc (t : State) : (agentTurn t).cc = t.cc := by
  obtain ⟨m, ag, bs, h⟩ := agentTurn_shape t; rw [h, withBus_cc]
@[simp] theorem agentTurn_x (t : State) : (agentTurn t).x = t.x := by
  obtain ⟨m, ag, bs, h⟩ := agentTurn_shape t; rw [h, withBus_x]
@[simp] theorem agentTurn_y (t : State) : (agentTurn t).y = t.y := by
  obtain ⟨m, ag, bs, h⟩ := agentTurn_shape t; rw [h, withBus_y]
@[simp] theorem agentTurn_u (t : State) : (agentTurn t).u = t.u := by
  obtain ⟨m, ag, bs, h⟩ := agentTurn_shape t; rw [h, withBus_u]
@[simp] theorem agentTurn_s (t : State) : (agentTurn t).s = t.s := by
  obtain ⟨m, ag, bs, h⟩ := agentTurn_shape t; rw [h, withBus_s]
@[simp] theorem agentTurn_pc (t : State) : (agentTurn t).pc = t.pc := by
  obtain ⟨m, ag, bs, h⟩ := agentTurn_shape t; rw [h, withBus_pc]
@[simp] theorem agentTurn_nmiArmed (t : State) : (agentTurn t).nmiArmed = t.nmiArmed := by
  obtain ⟨m, ag, bs, h⟩ := agentTurn_shape t; rw [h, withBus_nmiArmed]
@[simp] theorem agentTurn_nmiPending (t : State) : (agentTurn t).nmiPending = t.nmiPending := by
  obtain ⟨m, ag, bs, h⟩ := agentTurn_shape t; rw [h, withBus_nmiPending]
@[simp] theorem agentTurn_run (t : State) : (agentTurn t).run = t.run := by
  obtain ⟨m, ag, bs, h⟩ := agentTurn_shape t; rw [h, withBus_run]
@[simp] theorem agentTurn_pins (t : State) : (agentTurn t).pins = t.pins := by
  obtain ⟨m, ag, bs, h⟩ := agentTurn_shape t; rw [h, withBus_pins]
@[simp] theorem agentTurn_platform (t : State) : (agentTurn t).platform = t.platform := by
  obtain ⟨m, ag, bs, h⟩ := agentTurn_shape t; rw [h, withBus_platform]
@[simp] theorem agentTurn_flag (t : State) (k : Flag) : (agentTurn t).flag k = t.flag k := by
  simp only [State.flag, agentTurn_cc]
@[simp] theorem agentTurn_kindAt (t : State) (w : Word) : (agentTurn t).kindAt w = t.kindAt w := by
  simp only [State.kindAt, agentTurn_platform]
@[simp] theorem agentTurn_ptr (t : State) (r : Ptr) : (agentTurn t).ptr r = t.ptr r := by
  cases r <;> simp [State.ptr]
@[simp] theorem agentTurn_acc (t : State) (r : Acc) : (agentTurn t).acc r = t.acc r := by
  cases r <;> simp [State.acc]
@[simp] theorem agentTurn_wide (t : State) (r : Wide) : (agentTurn t).wide r = t.wide r := by
  cases r <;> simp [State.wide, State.d]

@[simp] theorem readByte_a (p : Word) (t : State) : (readByte p t).2.a = t.a := by
  obtain ⟨m, ag, io, bs, n, h⟩ := readByte_shape p t; rw [h, withBus_a]
@[simp] theorem readByte_b (p : Word) (t : State) : (readByte p t).2.b = t.b := by
  obtain ⟨m, ag, io, bs, n, h⟩ := readByte_shape p t; rw [h, withBus_b]
@[simp] theorem readByte_dp (p : Word) (t : State) : (readByte p t).2.dp = t.dp := by
  obtain ⟨m, ag, io, bs, n, h⟩ := readByte_shape p t; rw [h, withBus_dp]
@[simp] theorem readByte_cc (p : Word) (t : State) : (readByte p t).2.cc = t.cc := by
  obtain ⟨m, ag, io, bs, n, h⟩ := readByte_shape p t; rw [h, withBus_cc]
@[simp] theorem readByte_x (p : Word) (t : State) : (readByte p t).2.x = t.x := by
  obtain ⟨m, ag, io, bs, n, h⟩ := readByte_shape p t; rw [h, withBus_x]
@[simp] theorem readByte_y (p : Word) (t : State) : (readByte p t).2.y = t.y := by
  obtain ⟨m, ag, io, bs, n, h⟩ := readByte_shape p t; rw [h, withBus_y]
@[simp] theorem readByte_u (p : Word) (t : State) : (readByte p t).2.u = t.u := by
  obtain ⟨m, ag, io, bs, n, h⟩ := readByte_shape p t; rw [h, withBus_u]
@[simp] theorem readByte_s (p : Word) (t : State) : (readByte p t).2.s = t.s := by
  obtain ⟨m, ag, io, bs, n, h⟩ := readByte_shape p t; rw [h, withBus_s]
@[simp] theorem readByte_pc (p : Word) (t : State) : (readByte p t).2.pc = t.pc := by
  obtain ⟨m, ag, io, bs, n, h⟩ := readByte_shape p t; rw [h, withBus_pc]
@[simp] theorem readByte_nmiArmed (p : Word) (t : State) : (readByte p t).2.nmiArmed = t.nmiArmed := by
  obtain ⟨m, ag, io, bs, n, h⟩ := readByte_shape p t; rw [h, withBus_nmiArmed]
@[simp] theorem readByte_nmiPending (p : Word) (t : State) : (readByte p t).2.nmiPending = t.nmiPending := by
  obtain ⟨m, ag, io, bs, n, h⟩ := readByte_shape p t; rw [h, withBus_nmiPending]
@[simp] theorem readByte_run (p : Word) (t : State) : (readByte p t).2.run = t.run := by
  obtain ⟨m, ag, io, bs, n, h⟩ := readByte_shape p t; rw [h, withBus_run]
@[simp] theorem readByte_pins (p : Word) (t : State) : (readByte p t).2.pins = t.pins := by
  obtain ⟨m, ag, io, bs, n, h⟩ := readByte_shape p t; rw [h, withBus_pins]
@[simp] theorem readByte_platform (p : Word) (t : State) : (readByte p t).2.platform = t.platform := by
  obtain ⟨m, ag, io, bs, n, h⟩ := readByte_shape p t; rw [h, withBus_platform]
@[simp] theorem readByte_flag (p : Word) (t : State) (k : Flag) : (readByte p t).2.flag k = t.flag k := by
  simp only [State.flag, readByte_cc]
@[simp] theorem readByte_kindAt (p : Word) (t : State) (w : Word) : (readByte p t).2.kindAt w = t.kindAt w := by
  simp only [State.kindAt, readByte_platform]
@[simp] theorem readByte_ptr (p : Word) (t : State) (r : Ptr) : (readByte p t).2.ptr r = t.ptr r := by
  cases r <;> simp [State.ptr]
@[simp] theorem readByte_acc (p : Word) (t : State) (r : Acc) : (readByte p t).2.acc r = t.acc r := by
  cases r <;> simp [State.acc]
@[simp] theorem readByte_wide (p : Word) (t : State) (r : Wide) : (readByte p t).2.wide r = t.wide r := by
  cases r <;> simp [State.wide, State.d]

@[simp] theorem writeByte_a (p : Word) (v : Byte) (t : State) : (writeByte p v t).a = t.a := by
  obtain ⟨m, ag, io, bs, n, h⟩ := writeByte_shape p v t; rw [h, withBus_a]
@[simp] theorem writeByte_b (p : Word) (v : Byte) (t : State) : (writeByte p v t).b = t.b := by
  obtain ⟨m, ag, io, bs, n, h⟩ := writeByte_shape p v t; rw [h, withBus_b]
@[simp] theorem writeByte_dp (p : Word) (v : Byte) (t : State) : (writeByte p v t).dp = t.dp := by
  obtain ⟨m, ag, io, bs, n, h⟩ := writeByte_shape p v t; rw [h, withBus_dp]
@[simp] theorem writeByte_cc (p : Word) (v : Byte) (t : State) : (writeByte p v t).cc = t.cc := by
  obtain ⟨m, ag, io, bs, n, h⟩ := writeByte_shape p v t; rw [h, withBus_cc]
@[simp] theorem writeByte_x (p : Word) (v : Byte) (t : State) : (writeByte p v t).x = t.x := by
  obtain ⟨m, ag, io, bs, n, h⟩ := writeByte_shape p v t; rw [h, withBus_x]
@[simp] theorem writeByte_y (p : Word) (v : Byte) (t : State) : (writeByte p v t).y = t.y := by
  obtain ⟨m, ag, io, bs, n, h⟩ := writeByte_shape p v t; rw [h, withBus_y]
@[simp] theorem writeByte_u (p : Word) (v : Byte) (t : State) : (writeByte p v t).u = t.u := by
  obtain ⟨m, ag, io, bs, n, h⟩ := writeByte_shape p v t; rw [h, withBus_u]
@[simp] theorem writeByte_s (p : Word) (v : Byte) (t : State) : (writeByte p v t).s = t.s := by
  obtain ⟨m, ag, io, bs, n, h⟩ := writeByte_shape p v t; rw [h, withBus_s]
@[simp] theorem writeByte_pc (p : Word) (v : Byte) (t : State) : (writeByte p v t).pc = t.pc := by
  obtain ⟨m, ag, io, bs, n, h⟩ := writeByte_shape p v t; rw [h, withBus_pc]
@[simp] theorem writeByte_nmiArmed (p : Word) (v : Byte) (t : State) : (writeByte p v t).nmiArmed = t.nmiArmed := by
  obtain ⟨m, ag, io, bs, n, h⟩ := writeByte_shape p v t; rw [h, withBus_nmiArmed]
@[simp] theorem writeByte_nmiPending (p : Word) (v : Byte) (t : State) : (writeByte p v t).nmiPending = t.nmiPending := by
  obtain ⟨m, ag, io, bs, n, h⟩ := writeByte_shape p v t; rw [h, withBus_nmiPending]
@[simp] theorem writeByte_run (p : Word) (v : Byte) (t : State) : (writeByte p v t).run = t.run := by
  obtain ⟨m, ag, io, bs, n, h⟩ := writeByte_shape p v t; rw [h, withBus_run]
@[simp] theorem writeByte_pins (p : Word) (v : Byte) (t : State) : (writeByte p v t).pins = t.pins := by
  obtain ⟨m, ag, io, bs, n, h⟩ := writeByte_shape p v t; rw [h, withBus_pins]
@[simp] theorem writeByte_platform (p : Word) (v : Byte) (t : State) : (writeByte p v t).platform = t.platform := by
  obtain ⟨m, ag, io, bs, n, h⟩ := writeByte_shape p v t; rw [h, withBus_platform]
@[simp] theorem writeByte_flag (p : Word) (v : Byte) (t : State) (k : Flag) : (writeByte p v t).flag k = t.flag k := by
  simp only [State.flag, writeByte_cc]
@[simp] theorem writeByte_kindAt (p : Word) (v : Byte) (t : State) (w : Word) : (writeByte p v t).kindAt w = t.kindAt w := by
  simp only [State.kindAt, writeByte_platform]
@[simp] theorem writeByte_ptr (p : Word) (v : Byte) (t : State) (r : Ptr) : (writeByte p v t).ptr r = t.ptr r := by
  cases r <;> simp [State.ptr]
@[simp] theorem writeByte_acc (p : Word) (v : Byte) (t : State) (r : Acc) : (writeByte p v t).acc r = t.acc r := by
  cases r <;> simp [State.acc]
@[simp] theorem writeByte_wide (p : Word) (v : Byte) (t : State) (r : Wide) : (writeByte p v t).wide r = t.wide r := by
  cases r <;> simp [State.wide, State.d]

@[simp] theorem readWord_a (p : Word) (t : State) : (readWord p t).2.a = t.a := by
  obtain ⟨m, ag, io, bs, n, h⟩ := readWord_shape p t; rw [h, withBus_a]
@[simp] theorem readWord_b (p : Word) (t : State) : (readWord p t).2.b = t.b := by
  obtain ⟨m, ag, io, bs, n, h⟩ := readWord_shape p t; rw [h, withBus_b]
@[simp] theorem readWord_dp (p : Word) (t : State) : (readWord p t).2.dp = t.dp := by
  obtain ⟨m, ag, io, bs, n, h⟩ := readWord_shape p t; rw [h, withBus_dp]
@[simp] theorem readWord_cc (p : Word) (t : State) : (readWord p t).2.cc = t.cc := by
  obtain ⟨m, ag, io, bs, n, h⟩ := readWord_shape p t; rw [h, withBus_cc]
@[simp] theorem readWord_x (p : Word) (t : State) : (readWord p t).2.x = t.x := by
  obtain ⟨m, ag, io, bs, n, h⟩ := readWord_shape p t; rw [h, withBus_x]
@[simp] theorem readWord_y (p : Word) (t : State) : (readWord p t).2.y = t.y := by
  obtain ⟨m, ag, io, bs, n, h⟩ := readWord_shape p t; rw [h, withBus_y]
@[simp] theorem readWord_u (p : Word) (t : State) : (readWord p t).2.u = t.u := by
  obtain ⟨m, ag, io, bs, n, h⟩ := readWord_shape p t; rw [h, withBus_u]
@[simp] theorem readWord_s (p : Word) (t : State) : (readWord p t).2.s = t.s := by
  obtain ⟨m, ag, io, bs, n, h⟩ := readWord_shape p t; rw [h, withBus_s]
@[simp] theorem readWord_pc (p : Word) (t : State) : (readWord p t).2.pc = t.pc := by
  obtain ⟨m, ag, io, bs, n, h⟩ := readWord_shape p t; rw [h, withBus_pc]
@[simp] theorem readWord_nmiArmed (p : Word) (t : State) : (readWord p t).2.nmiArmed = t.nmiArmed := by
  obtain ⟨m, ag, io, bs, n, h⟩ := readWord_shape p t; rw [h, withBus_nmiArmed]
@[simp] theorem readWord_nmiPending (p : Word) (t : State) : (readWord p t).2.nmiPending = t.nmiPending := by
  obtain ⟨m, ag, io, bs, n, h⟩ := readWord_shape p t; rw [h, withBus_nmiPending]
@[simp] theorem readWord_run (p : Word) (t : State) : (readWord p t).2.run = t.run := by
  obtain ⟨m, ag, io, bs, n, h⟩ := readWord_shape p t; rw [h, withBus_run]
@[simp] theorem readWord_pins (p : Word) (t : State) : (readWord p t).2.pins = t.pins := by
  obtain ⟨m, ag, io, bs, n, h⟩ := readWord_shape p t; rw [h, withBus_pins]
@[simp] theorem readWord_platform (p : Word) (t : State) : (readWord p t).2.platform = t.platform := by
  obtain ⟨m, ag, io, bs, n, h⟩ := readWord_shape p t; rw [h, withBus_platform]
@[simp] theorem readWord_flag (p : Word) (t : State) (k : Flag) : (readWord p t).2.flag k = t.flag k := by
  simp only [State.flag, readWord_cc]
@[simp] theorem readWord_kindAt (p : Word) (t : State) (w : Word) : (readWord p t).2.kindAt w = t.kindAt w := by
  simp only [State.kindAt, readWord_platform]
@[simp] theorem readWord_ptr (p : Word) (t : State) (r : Ptr) : (readWord p t).2.ptr r = t.ptr r := by
  cases r <;> simp [State.ptr]
@[simp] theorem readWord_acc (p : Word) (t : State) (r : Acc) : (readWord p t).2.acc r = t.acc r := by
  cases r <;> simp [State.acc]
@[simp] theorem readWord_wide (p : Word) (t : State) (r : Wide) : (readWord p t).2.wide r = t.wide r := by
  cases r <;> simp [State.wide, State.d]

@[simp] theorem writeWord_a (p v : Word) (t : State) : (writeWord p v t).a = t.a := by
  obtain ⟨m, ag, io, bs, n, h⟩ := writeWord_shape p v t; rw [h, withBus_a]
@[simp] theorem writeWord_b (p v : Word) (t : State) : (writeWord p v t).b = t.b := by
  obtain ⟨m, ag, io, bs, n, h⟩ := writeWord_shape p v t; rw [h, withBus_b]
@[simp] theorem writeWord_dp (p v : Word) (t : State) : (writeWord p v t).dp = t.dp := by
  obtain ⟨m, ag, io, bs, n, h⟩ := writeWord_shape p v t; rw [h, withBus_dp]
@[simp] theorem writeWord_cc (p v : Word) (t : State) : (writeWord p v t).cc = t.cc := by
  obtain ⟨m, ag, io, bs, n, h⟩ := writeWord_shape p v t; rw [h, withBus_cc]
@[simp] theorem writeWord_x (p v : Word) (t : State) : (writeWord p v t).x = t.x := by
  obtain ⟨m, ag, io, bs, n, h⟩ := writeWord_shape p v t; rw [h, withBus_x]
@[simp] theorem writeWord_y (p v : Word) (t : State) : (writeWord p v t).y = t.y := by
  obtain ⟨m, ag, io, bs, n, h⟩ := writeWord_shape p v t; rw [h, withBus_y]
@[simp] theorem writeWord_u (p v : Word) (t : State) : (writeWord p v t).u = t.u := by
  obtain ⟨m, ag, io, bs, n, h⟩ := writeWord_shape p v t; rw [h, withBus_u]
@[simp] theorem writeWord_s (p v : Word) (t : State) : (writeWord p v t).s = t.s := by
  obtain ⟨m, ag, io, bs, n, h⟩ := writeWord_shape p v t; rw [h, withBus_s]
@[simp] theorem writeWord_pc (p v : Word) (t : State) : (writeWord p v t).pc = t.pc := by
  obtain ⟨m, ag, io, bs, n, h⟩ := writeWord_shape p v t; rw [h, withBus_pc]
@[simp] theorem writeWord_nmiArmed (p v : Word) (t : State) : (writeWord p v t).nmiArmed = t.nmiArmed := by
  obtain ⟨m, ag, io, bs, n, h⟩ := writeWord_shape p v t; rw [h, withBus_nmiArmed]
@[simp] theorem writeWord_nmiPending (p v : Word) (t : State) : (writeWord p v t).nmiPending = t.nmiPending := by
  obtain ⟨m, ag, io, bs, n, h⟩ := writeWord_shape p v t; rw [h, withBus_nmiPending]
@[simp] theorem writeWord_run (p v : Word) (t : State) : (writeWord p v t).run = t.run := by
  obtain ⟨m, ag, io, bs, n, h⟩ := writeWord_shape p v t; rw [h, withBus_run]
@[simp] theorem writeWord_pins (p v : Word) (t : State) : (writeWord p v t).pins = t.pins := by
  obtain ⟨m, ag, io, bs, n, h⟩ := writeWord_shape p v t; rw [h, withBus_pins]
@[simp] theorem writeWord_platform (p v : Word) (t : State) : (writeWord p v t).platform = t.platform := by
  obtain ⟨m, ag, io, bs, n, h⟩ := writeWord_shape p v t; rw [h, withBus_platform]
@[simp] theorem writeWord_flag (p v : Word) (t : State) (k : Flag) : (writeWord p v t).flag k = t.flag k := by
  simp only [State.flag, writeWord_cc]
@[simp] theorem writeWord_kindAt (p v : Word) (t : State) (w : Word) : (writeWord p v t).kindAt w = t.kindAt w := by
  simp only [State.kindAt, writeWord_platform]
@[simp] theorem writeWord_ptr (p v : Word) (t : State) (r : Ptr) : (writeWord p v t).ptr r = t.ptr r := by
  cases r <;> simp [State.ptr]
@[simp] theorem writeWord_acc (p v : Word) (t : State) (r : Acc) : (writeWord p v t).acc r = t.acc r := by
  cases r <;> simp [State.acc]
@[simp] theorem writeWord_wide (p v : Word) (t : State) (r : Wide) : (writeWord p v t).wide r = t.wide r := by
  cases r <;> simp [State.wide, State.d]

/-! ## The canonical form -/

theorem agentWrite_wf (t : State) (w : AgentWrite) (h : Memory.wf t.mem = true) :
    Memory.wf (agentWrite t w).mem = true := by
  unfold agentWrite
  split
  · exact State.wf_poke _ _ _ h
  all_goals exact h

theorem foldl_agentWrite_wf (batch : List AgentWrite) (t : State) (h : Memory.wf t.mem = true) :
    Memory.wf (batch.foldl agentWrite t).mem = true := by
  induction batch generalizing t with
  | nil => exact h
  | cons w rest ih => exact ih _ (agentWrite_wf t w h)

theorem agentTurn_wf (t : State) (h : Memory.wf t.mem = true) : Memory.wf (agentTurn t).mem = true := by
  unfold agentTurn
  split
  · exact h
  · exact h
  · exact foldl_agentWrite_wf _ t h

theorem platformRead_mem (a : Word) (t : State) : (platformRead a t).2.mem = t.mem := by
  obtain ⟨io, n, h⟩ := platformRead_shape a t
  rw [h]; rfl

theorem readByteAs_wf (c : Word → Byte → BusCycle) (a : Word) (t : State) (h : Memory.wf t.mem = true) :
    Memory.wf (readByteAs c a t).2.mem = true := by
  show Memory.wf (platformRead a (agentTurn t)).2.mem = true
  rw [platformRead_mem]
  exact agentTurn_wf t h

theorem readByte_wf (a : Word) (t : State) (h : Memory.wf t.mem = true) : Memory.wf (readByte a t).2.mem = true :=
  readByteAs_wf _ a t h

theorem platformWrite_wf (a : Word) (v : Byte) (t : State) (h : Memory.wf t.mem = true) :
    Memory.wf (platformWrite a v t).mem = true := by
  unfold platformWrite
  split
  · exact State.wf_poke _ _ _ h
  all_goals exact h

theorem writeByte_wf (a : Word) (v : Byte) (t : State) (h : Memory.wf t.mem = true) :
    Memory.wf (writeByte a v t).mem = true := platformWrite_wf a v _ (agentTurn_wf t h)

theorem readWordAs_wf (c : Word → Byte → BusCycle) (a : Word) (t : State) (h : Memory.wf t.mem = true) :
    Memory.wf (readWordAs c a t).2.mem = true := readByteAs_wf _ _ _ (readByteAs_wf _ _ _ h)

theorem readWord_wf (a : Word) (t : State) (h : Memory.wf t.mem = true) : Memory.wf (readWord a t).2.mem = true :=
  readWordAs_wf _ a t h

theorem writeWord_wf (a : Word) (v : Word) (t : State) (h : Memory.wf t.mem = true) :
    Memory.wf (writeWord a v t).mem = true :=
  writeByte_wf _ _ _ (writeByte_wf _ _ _ h)

/-! ## With no other bus master -/

theorem agentTurn_none (t : State) (h : t.agent = []) : agentTurn t = t := by
  unfold agentTurn
  rw [h]

/-- With no other bus master a read changes no memory. -/
theorem readByteAs_quiet (c : Word → Byte → BusCycle) (a : Word) (t : State) (h : t.agent = []) :
    (readByteAs c a t).2.mem = t.mem ∧ (readByteAs c a t).2.agent = [] := by
  obtain ⟨io, n, e⟩ := platformRead_shape a t
  unfold readByteAs recordCycle
  rw [agentTurn_none t h]
  simp only
  rw [e]
  exact ⟨rfl, h⟩

theorem readByte_quiet (a : Word) (t : State) (h : t.agent = []) :
    (readByte a t).2.mem = t.mem ∧ (readByte a t).2.agent = [] := readByteAs_quiet _ a t h

/-- A read of plain memory with no other bus master is a peek, and changes the record of the bus only. -/
theorem readByteAs_plain (c : Word → Byte → BusCycle) (a : Word) (t : State) (h : t.agent = [])
    (hk : t.kindAt a = .ram ∨ t.kindAt a = .rom) : readByteAs c a t = (t.peek a, recordCycle (c a (t.peek a)) t) := by
  unfold readByteAs platformRead
  rw [agentTurn_none t h]
  rcases hk with hk | hk <;> simp only [hk]

theorem readByte_plain (a : Word) (t : State) (h : t.agent = []) (hk : t.kindAt a = .ram ∨ t.kindAt a = .rom) :
    readByte a t = (t.peek a, recordCycle (.read a (t.peek a)) t) := readByteAs_plain .read a t h hk

/-- With no other bus master a write to RAM is a poke, and a cycle on the record. -/
theorem writeByte_ram (a : Word) (v : Byte) (t : State) (h : t.agent = []) (hk : t.kindAt a = .ram) :
    writeByte a v t = recordCycle (.write a v) (t.poke a v) := by
  unfold writeByte platformWrite
  rw [agentTurn_none t h]
  simp only [hk]

/-- With no other bus master a write changes at most the byte it stores to. -/
theorem writeByte_quiet (a : Word) (v : Byte) (t : State) (h : t.agent = []) :
    (writeByte a v t).agent = [] ∧ ∀ b, b ≠ a → (writeByte a v t).peek b = t.peek b := by
  unfold writeByte platformWrite
  rw [agentTurn_none t h]
  split
  · exact ⟨h, fun b hb => State.peek_poke_other t v hb⟩
  · exact ⟨h, fun _ _ => rfl⟩
  · exact ⟨h, fun _ _ => rfl⟩
  · exact ⟨h, fun _ _ => rfl⟩

theorem readWordAs_quiet (c : Word → Byte → BusCycle) (a : Word) (t : State) (h : t.agent = []) :
    (readWordAs c a t).2.mem = t.mem ∧ (readWordAs c a t).2.agent = [] := by
  obtain ⟨h1, h2⟩ := readByteAs_quiet c a t h
  obtain ⟨h3, h4⟩ := readByteAs_quiet c (a + 1) _ h2
  exact ⟨h3.trans h1, h4⟩

theorem readWord_quiet (a : Word) (t : State) (h : t.agent = []) :
    (readWord a t).2.mem = t.mem ∧ (readWord a t).2.agent = [] := readWordAs_quiet _ a t h

/-- A read of two bytes of plain memory with no other bus master. -/
theorem readWordAs_plain (c : Word → Byte → BusCycle) (a : Word) (t : State) (h : t.agent = [])
    (hk : t.kindAt a = .ram ∨ t.kindAt a = .rom) (hk' : t.kindAt (a + 1) = .ram ∨ t.kindAt (a + 1) = .rom) :
    readWordAs c a t = (joinBytes (t.peek a) (t.peek (a + 1)),
      recordCycle (c (a + 1) (t.peek (a + 1))) (recordCycle (c a (t.peek a)) t)) := by
  unfold readWordAs
  rw [readByteAs_plain c a t h hk]
  simp only
  rw [readByteAs_plain c (a + 1) (recordCycle _ t) h hk']
  rfl

theorem readWord_plain (a : Word) (t : State) (h : t.agent = []) (hk : t.kindAt a = .ram ∨ t.kindAt a = .rom)
    (hk' : t.kindAt (a + 1) = .ram ∨ t.kindAt (a + 1) = .rom) :
    readWord a t = (joinBytes (t.peek a) (t.peek (a + 1)),
      recordCycle (.read (a + 1) (t.peek (a + 1))) (recordCycle (.read a (t.peek a)) t)) :=
  readWordAs_plain .read a t h hk hk'

theorem writeWord_quiet (a : Word) (v : Word) (t : State) (h : t.agent = []) :
    (writeWord a v t).agent = [] ∧ ∀ b, b ≠ a → b ≠ a + 1 → (writeWord a v t).peek b = t.peek b := by
  obtain ⟨h1, h2⟩ := writeByte_quiet a (highByte v) t h
  obtain ⟨h3, h4⟩ := writeByte_quiet (a + 1) (lowByte v) _ h1
  exact ⟨h3, fun b hb hb' => (h4 b hb').trans (h2 b hb)⟩

end Sys2Proof.Machine
end

