-- ==== Sys2Proof/Laws/Stack.lean ====
section
/-! SUPPORT. What a pointer register's update, a push and a pull can do (20_memory.md R81, R82). -/

namespace Sys2Proof.Machine

/-! ## Pointer registers, accumulators and D -/

@[simp] theorem State.setPtr_a (t : State) (p : Ptr) (v : Word) : (t.setPtr p v).a = t.a := by cases p <;> rfl
@[simp] theorem State.setPtr_b (t : State) (p : Ptr) (v : Word) : (t.setPtr p v).b = t.b := by cases p <;> rfl
@[simp] theorem State.setPtr_dp (t : State) (p : Ptr) (v : Word) : (t.setPtr p v).dp = t.dp := by cases p <;> rfl
@[simp] theorem State.setPtr_cc (t : State) (p : Ptr) (v : Word) : (t.setPtr p v).cc = t.cc := by cases p <;> rfl
@[simp] theorem State.setPtr_pc (t : State) (p : Ptr) (v : Word) : (t.setPtr p v).pc = t.pc := by cases p <;> rfl
@[simp] theorem State.setPtr_nmiArmed (t : State) (p : Ptr) (v : Word) : (t.setPtr p v).nmiArmed = t.nmiArmed := by cases p <;> rfl
@[simp] theorem State.setPtr_nmiPending (t : State) (p : Ptr) (v : Word) : (t.setPtr p v).nmiPending = t.nmiPending := by cases p <;> rfl
@[simp] theorem State.setPtr_run (t : State) (p : Ptr) (v : Word) : (t.setPtr p v).run = t.run := by cases p <;> rfl
@[simp] theorem State.setPtr_pins (t : State) (p : Ptr) (v : Word) : (t.setPtr p v).pins = t.pins := by cases p <;> rfl
@[simp] theorem State.setPtr_platform (t : State) (p : Ptr) (v : Word) : (t.setPtr p v).platform = t.platform := by cases p <;> rfl
@[simp] theorem State.setPtr_mem (t : State) (p : Ptr) (v : Word) : (t.setPtr p v).mem = t.mem := by cases p <;> rfl
@[simp] theorem State.setPtr_agent (t : State) (p : Ptr) (v : Word) : (t.setPtr p v).agent = t.agent := by cases p <;> rfl
@[simp] theorem State.setPtr_io (t : State) (p : Ptr) (v : Word) : (t.setPtr p v).io = t.io := by cases p <;> rfl
@[simp] theorem State.setPtr_bus (t : State) (p : Ptr) (v : Word) : (t.setPtr p v).bus = t.bus := by cases p <;> rfl
@[simp] theorem State.setPtr_freeCount (t : State) (p : Ptr) (v : Word) : (t.setPtr p v).freeCount = t.freeCount := by cases p <;> rfl
@[simp] theorem State.setPtr_x (t : State) (p : Ptr) (v : Word) :
    (t.setPtr p v).x = if p = .x then v else t.x := by cases p <;> simp [State.setPtr]
@[simp] theorem State.setPtr_y (t : State) (p : Ptr) (v : Word) :
    (t.setPtr p v).y = if p = .y then v else t.y := by cases p <;> simp [State.setPtr]
@[simp] theorem State.setPtr_u (t : State) (p : Ptr) (v : Word) :
    (t.setPtr p v).u = if p = .u then v else t.u := by cases p <;> simp [State.setPtr]
@[simp] theorem State.setPtr_s (t : State) (p : Ptr) (v : Word) :
    (t.setPtr p v).s = if p = .s then v else t.s := by cases p <;> simp [State.setPtr]

@[simp] theorem State.ptr_setPtr (t : State) (p q : Ptr) (v : Word) :
    (t.setPtr p v).ptr q = if q = p then v else t.ptr q := by
  cases p <;> cases q <;> simp [State.setPtr, State.ptr]

@[simp] theorem State.setPtr_flag (t : State) (p : Ptr) (v : Word) (k : Flag) : (t.setPtr p v).flag k = t.flag k := by
  simp only [State.flag, State.setPtr_cc]

@[simp] theorem State.setPtr_kindAt (t : State) (p : Ptr) (v : Word) (a : Word) :
    (t.setPtr p v).kindAt a = t.kindAt a := by
  simp only [State.kindAt, State.setPtr_platform]

@[simp] theorem State.setPtr_peek (t : State) (p : Ptr) (v : Word) (a : Word) : (t.setPtr p v).peek a = t.peek a := by
  simp only [State.peek, State.setPtr_mem]

theorem State.ptr_x (t : State) : t.ptr .x = t.x := rfl
theorem State.ptr_y (t : State) : t.ptr .y = t.y := rfl
theorem State.ptr_u (t : State) : t.ptr .u = t.u := rfl
theorem State.ptr_s (t : State) : t.ptr .s = t.s := rfl

@[simp] theorem State.setAcc_dp (t : State) (r : Acc) (v : Byte) : (t.setAcc r v).dp = t.dp := by cases r <;> rfl
@[simp] theorem State.setAcc_cc (t : State) (r : Acc) (v : Byte) : (t.setAcc r v).cc = t.cc := by cases r <;> rfl
@[simp] theorem State.setAcc_x (t : State) (r : Acc) (v : Byte) : (t.setAcc r v).x = t.x := by cases r <;> rfl
@[simp] theorem State.setAcc_y (t : State) (r : Acc) (v : Byte) : (t.setAcc r v).y = t.y := by cases r <;> rfl
@[simp] theorem State.setAcc_u (t : State) (r : Acc) (v : Byte) : (t.setAcc r v).u = t.u := by cases r <;> rfl
@[simp] theorem State.setAcc_s (t : State) (r : Acc) (v : Byte) : (t.setAcc r v).s = t.s := by cases r <;> rfl
@[simp] theorem State.setAcc_pc (t : State) (r : Acc) (v : Byte) : (t.setAcc r v).pc = t.pc := by cases r <;> rfl
@[simp] theorem State.setAcc_nmiArmed (t : State) (r : Acc) (v : Byte) : (t.setAcc r v).nmiArmed = t.nmiArmed := by cases r <;> rfl
@[simp] theorem State.setAcc_nmiPending (t : State) (r : Acc) (v : Byte) : (t.setAcc r v).nmiPending = t.nmiPending := by cases r <;> rfl
@[simp] theorem State.setAcc_run (t : State) (r : Acc) (v : Byte) : (t.setAcc r v).run = t.run := by cases r <;> rfl
@[simp] theorem State.setAcc_pins (t : State) (r : Acc) (v : Byte) : (t.setAcc r v).pins = t.pins := by cases r <;> rfl
@[simp] theorem State.setAcc_platform (t : State) (r : Acc) (v : Byte) : (t.setAcc r v).platform = t.platform := by cases r <;> rfl
@[simp] theorem State.setAcc_mem (t : State) (r : Acc) (v : Byte) : (t.setAcc r v).mem = t.mem := by cases r <;> rfl
@[simp] theorem State.setAcc_agent (t : State) (r : Acc) (v : Byte) : (t.setAcc r v).agent = t.agent := by cases r <;> rfl
@[simp] theorem State.setAcc_io (t : State) (r : Acc) (v : Byte) : (t.setAcc r v).io = t.io := by cases r <;> rfl
@[simp] theorem State.setAcc_bus (t : State) (r : Acc) (v : Byte) : (t.setAcc r v).bus = t.bus := by cases r <;> rfl
@[simp] theorem State.setAcc_freeCount (t : State) (r : Acc) (v : Byte) : (t.setAcc r v).freeCount = t.freeCount := by cases r <;> rfl
@[simp] theorem State.setAcc_a (t : State) (r : Acc) (v : Byte) :
    (t.setAcc r v).a = if r = .a then v else t.a := by cases r <;> simp [State.setAcc]
@[simp] theorem State.setAcc_b (t : State) (r : Acc) (v : Byte) :
    (t.setAcc r v).b = if r = .b then v else t.b := by cases r <;> simp [State.setAcc]
@[simp] theorem State.acc_setAcc (t : State) (r q : Acc) (v : Byte) :
    (t.setAcc r v).acc q = if q = r then v else t.acc q := by
  cases r <;> cases q <;> simp [State.setAcc, State.acc]
@[simp] theorem State.setAcc_flag (t : State) (r : Acc) (v : Byte) (k : Flag) : (t.setAcc r v).flag k = t.flag k := by
  simp only [State.flag, State.setAcc_cc]

/-! ## The two bytes of a word -/

theorem joinBytes_getLsbD (h l : Byte) (i : Nat) :
    (joinBytes h l).getLsbD i = if i < 8 then l.getLsbD i else h.getLsbD (i - 8) :=
  BitVec.getLsbD_append

@[simp] theorem highByte_joinBytes (h l : Byte) : highByte (joinBytes h l) = h := by
  apply BitVec.eq_of_getLsbD_eq
  intro i hi
  simp only [highByte, BitVec.getLsbD_extractLsb', joinBytes_getLsbD]
  simp [hi]

@[simp] theorem lowByte_joinBytes (h l : Byte) : lowByte (joinBytes h l) = l := by
  apply BitVec.eq_of_getLsbD_eq
  intro i hi
  simp only [lowByte, BitVec.getLsbD_extractLsb', joinBytes_getLsbD]
  simp [hi]

@[simp] theorem joinBytes_highByte_lowByte (v : Word) : joinBytes (highByte v) (lowByte v) = v := by
  apply BitVec.eq_of_getLsbD_eq
  intro i hi
  simp only [highByte, lowByte, BitVec.getLsbD_extractLsb', joinBytes_getLsbD]
  by_cases h : i < 8
  · simp [h]
  · simp [h, show i - 8 < 8 by omega, show 8 + (i - 8) = i by omega]

theorem joinBytes_toNat (h l : Byte) : (joinBytes h l).toNat = 256 * h.toNat + l.toNat := by
  have hl := l.isLt
  have : (joinBytes h l).toNat = h.toNat <<< 8 ||| l.toNat := BitVec.toNat_append h l
  rw [this, ← Nat.shiftLeft_add_eq_or_of_lt hl, Nat.shiftLeft_eq]
  omega

theorem State.d_setD (t : State) (v : Word) : (t.setD v).d = v := by
  simp [State.d, State.setD]

/-! ## Push -/

theorem push8_ptr (p q : Ptr) (v : Byte) (t : State) :
    (push8 p v t).ptr q = if q = p then t.ptr p - 1 else t.ptr q := by
  simp [push8]

@[simp] theorem push8_a (p : Ptr) (v : Byte) (t : State) : (push8 p v t).a = t.a := by
  simp [push8]
@[simp] theorem push8_b (p : Ptr) (v : Byte) (t : State) : (push8 p v t).b = t.b := by
  simp [push8]
@[simp] theorem push8_dp (p : Ptr) (v : Byte) (t : State) : (push8 p v t).dp = t.dp := by
  simp [push8]
@[simp] theorem push8_cc (p : Ptr) (v : Byte) (t : State) : (push8 p v t).cc = t.cc := by
  simp [push8]
@[simp] theorem push8_pc (p : Ptr) (v : Byte) (t : State) : (push8 p v t).pc = t.pc := by
  simp [push8]
@[simp] theorem push8_nmiArmed (p : Ptr) (v : Byte) (t : State) : (push8 p v t).nmiArmed = t.nmiArmed := by
  simp [push8]
@[simp] theorem push8_nmiPending (p : Ptr) (v : Byte) (t : State) : (push8 p v t).nmiPending = t.nmiPending := by
  simp [push8]
@[simp] theorem push8_run (p : Ptr) (v : Byte) (t : State) : (push8 p v t).run = t.run := by
  simp [push8]
@[simp] theorem push8_pins (p : Ptr) (v : Byte) (t : State) : (push8 p v t).pins = t.pins := by
  simp [push8]
@[simp] theorem push8_platform (p : Ptr) (v : Byte) (t : State) : (push8 p v t).platform = t.platform := by
  simp [push8]
@[simp] theorem push8_flag (p : Ptr) (v : Byte) (t : State) (k : Flag) : (push8 p v t).flag k = t.flag k := by
  simp [push8]
@[simp] theorem push8_kindAt (p : Ptr) (v : Byte) (t : State) (w : Word) : (push8 p v t).kindAt w = t.kindAt w := by
  simp [push8]

@[simp] theorem push8_x (p : Ptr) (v : Byte) (t : State) :
    (push8 p v t).x = if p = .x then t.x - 1 else t.x := by
  cases p <;> simp [push8, State.ptr]
@[simp] theorem push8_y (p : Ptr) (v : Byte) (t : State) :
    (push8 p v t).y = if p = .y then t.y - 1 else t.y := by
  cases p <;> simp [push8, State.ptr]
@[simp] theorem push8_u (p : Ptr) (v : Byte) (t : State) :
    (push8 p v t).u = if p = .u then t.u - 1 else t.u := by
  cases p <;> simp [push8, State.ptr]
@[simp] theorem push8_s (p : Ptr) (v : Byte) (t : State) :
    (push8 p v t).s = if p = .s then t.s - 1 else t.s := by
  cases p <;> simp [push8, State.ptr]
@[simp] theorem push16_a (p : Ptr) (v : Word) (t : State) : (push16 p v t).a = t.a := by
  simp [push16]
@[simp] theorem push16_b (p : Ptr) (v : Word) (t : State) : (push16 p v t).b = t.b := by
  simp [push16]
@[simp] theorem push16_dp (p : Ptr) (v : Word) (t : State) : (push16 p v t).dp = t.dp := by
  simp [push16]
@[simp] theorem push16_cc (p : Ptr) (v : Word) (t : State) : (push16 p v t).cc = t.cc := by
  simp [push16]
@[simp] theorem push16_pc (p : Ptr) (v : Word) (t : State) : (push16 p v t).pc = t.pc := by
  simp [push16]
@[simp] theorem push16_nmiArmed (p : Ptr) (v : Word) (t : State) : (push16 p v t).nmiArmed = t.nmiArmed := by
  simp [push16]
@[simp] theorem push16_nmiPending (p : Ptr) (v : Word) (t : State) : (push16 p v t).nmiPending = t.nmiPending := by
  simp [push16]
@[simp] theorem push16_run (p : Ptr) (v : Word) (t : State) : (push16 p v t).run = t.run := by
  simp [push16]
@[simp] theorem push16_pins (p : Ptr) (v : Word) (t : State) : (push16 p v t).pins = t.pins := by
  simp [push16]
@[simp] theorem push16_platform (p : Ptr) (v : Word) (t : State) : (push16 p v t).platform = t.platform := by
  simp [push16]
@[simp] theorem push16_flag (p : Ptr) (v : Word) (t : State) (k : Flag) : (push16 p v t).flag k = t.flag k := by
  simp [push16]
@[simp] theorem push16_kindAt (p : Ptr) (v : Word) (t : State) (w : Word) : (push16 p v t).kindAt w = t.kindAt w := by
  simp [push16]

@[simp] theorem push16_x (p : Ptr) (v : Word) (t : State) :
    (push16 p v t).x = if p = .x then t.x - 2 else t.x := by
  cases p <;> simp [push16, BitVec.sub_sub]
@[simp] theorem push16_y (p : Ptr) (v : Word) (t : State) :
    (push16 p v t).y = if p = .y then t.y - 2 else t.y := by
  cases p <;> simp [push16, BitVec.sub_sub]
@[simp] theorem push16_u (p : Ptr) (v : Word) (t : State) :
    (push16 p v t).u = if p = .u then t.u - 2 else t.u := by
  cases p <;> simp [push16, BitVec.sub_sub]
@[simp] theorem push16_s (p : Ptr) (v : Word) (t : State) :
    (push16 p v t).s = if p = .s then t.s - 2 else t.s := by
  cases p <;> simp [push16, BitVec.sub_sub]

theorem push16_ptr (p q : Ptr) (v : Word) (t : State) :
    (push16 p v t).ptr q = if q = p then t.ptr p - 2 else t.ptr q := by
  cases p <;> cases q <;> simp [State.ptr]

theorem push8_wf (p : Ptr) (v : Byte) (t : State) (h : Memory.wf t.mem = true) :
    Memory.wf (push8 p v t).mem = true :=
  writeByte_wf _ _ _ (by simpa using h)

theorem push16_wf (p : Ptr) (v : Word) (t : State) (h : Memory.wf t.mem = true) :
    Memory.wf (push16 p v t).mem = true :=
  push8_wf _ _ _ (push8_wf _ _ _ h)

/-- With no other bus master a push changes at most the byte below the pointer. -/
theorem push8_quiet (p : Ptr) (v : Byte) (t : State) (h : t.agent = []) :
    (push8 p v t).agent = [] ∧ ∀ b, b ≠ t.ptr p - 1 → (push8 p v t).peek b = t.peek b := by
  obtain ⟨h1, h2⟩ := writeByte_quiet (t.ptr p - 1) v (t.setPtr p (t.ptr p - 1)) (by simpa using h)
  exact ⟨h1, fun b hb => (h2 b hb).trans (by simp)⟩

theorem push16_quiet (p : Ptr) (v : Word) (t : State) (h : t.agent = []) :
    (push16 p v t).agent = [] ∧
      ∀ b, b ≠ t.ptr p - 1 → b ≠ t.ptr p - 2 → (push16 p v t).peek b = t.peek b := by
  obtain ⟨h1, h2⟩ := push8_quiet p (lowByte v) t h
  obtain ⟨h3, h4⟩ := push8_quiet p (highByte v) _ h1
  refine ⟨h3, fun b hb hb' => (h4 b ?_).trans (h2 b hb)⟩
  simpa [push8_ptr, BitVec.sub_sub] using hb'

/-! ## Pull -/

theorem pull8_ptr (p q : Ptr) (t : State) : (pull8 p t).2.ptr q = if q = p then t.ptr p + 1 else t.ptr q := by
  simp [pull8]

@[simp] theorem pull8_a (p : Ptr) (t : State) : (pull8 p t).2.a = t.a := by
  simp [pull8]
@[simp] theorem pull8_b (p : Ptr) (t : State) : (pull8 p t).2.b = t.b := by
  simp [pull8]
@[simp] theorem pull8_dp (p : Ptr) (t : State) : (pull8 p t).2.dp = t.dp := by
  simp [pull8]
@[simp] theorem pull8_cc (p : Ptr) (t : State) : (pull8 p t).2.cc = t.cc := by
  simp [pull8]
@[simp] theorem pull8_pc (p : Ptr) (t : State) : (pull8 p t).2.pc = t.pc := by
  simp [pull8]
@[simp] theorem pull8_nmiArmed (p : Ptr) (t : State) : (pull8 p t).2.nmiArmed = t.nmiArmed := by
  simp [pull8]
@[simp] theorem pull8_nmiPending (p : Ptr) (t : State) : (pull8 p t).2.nmiPending = t.nmiPending := by
  simp [pull8]
@[simp] theorem pull8_run (p : Ptr) (t : State) : (pull8 p t).2.run = t.run := by
  simp [pull8]
@[simp] theorem pull8_pins (p : Ptr) (t : State) : (pull8 p t).2.pins = t.pins := by
  simp [pull8]
@[simp] theorem pull8_platform (p : Ptr) (t : State) : (pull8 p t).2.platform = t.platform := by
  simp [pull8]
@[simp] theorem pull8_flag (p : Ptr) (t : State) (k : Flag) : (pull8 p t).2.flag k = t.flag k := by
  simp [pull8]
@[simp] theorem pull8_kindAt (p : Ptr) (t : State) (w : Word) : (pull8 p t).2.kindAt w = t.kindAt w := by
  simp [pull8]

@[simp] theorem pull8_x (p : Ptr) (t : State) :
    (pull8 p t).2.x = if p = .x then t.x + 1 else t.x := by
  cases p <;> simp [pull8, State.ptr]
@[simp] theorem pull8_y (p : Ptr) (t : State) :
    (pull8 p t).2.y = if p = .y then t.y + 1 else t.y := by
  cases p <;> simp [pull8, State.ptr]
@[simp] theorem pull8_u (p : Ptr) (t : State) :
    (pull8 p t).2.u = if p = .u then t.u + 1 else t.u := by
  cases p <;> simp [pull8, State.ptr]
@[simp] theorem pull8_s (p : Ptr) (t : State) :
    (pull8 p t).2.s = if p = .s then t.s + 1 else t.s := by
  cases p <;> simp [pull8, State.ptr]
@[simp] theorem pull16_a (p : Ptr) (t : State) : (pull16 p t).2.a = t.a := by
  simp [pull16]
@[simp] theorem pull16_b (p : Ptr) (t : State) : (pull16 p t).2.b = t.b := by
  simp [pull16]
@[simp] theorem pull16_dp (p : Ptr) (t : State) : (pull16 p t).2.dp = t.dp := by
  simp [pull16]
@[simp] theorem pull16_cc (p : Ptr) (t : State) : (pull16 p t).2.cc = t.cc := by
  simp [pull16]
@[simp] theorem pull16_pc (p : Ptr) (t : State) : (pull16 p t).2.pc = t.pc := by
  simp [pull16]
@[simp] theorem pull16_nmiArmed (p : Ptr) (t : State) : (pull16 p t).2.nmiArmed = t.nmiArmed := by
  simp [pull16]
@[simp] theorem pull16_nmiPending (p : Ptr) (t : State) : (pull16 p t).2.nmiPending = t.nmiPending := by
  simp [pull16]
@[simp] theorem pull16_run (p : Ptr) (t : State) : (pull16 p t).2.run = t.run := by
  simp [pull16]
@[simp] theorem pull16_pins (p : Ptr) (t : State) : (pull16 p t).2.pins = t.pins := by
  simp [pull16]
@[simp] theorem pull16_platform (p : Ptr) (t : State) : (pull16 p t).2.platform = t.platform := by
  simp [pull16]
@[simp] theorem pull16_flag (p : Ptr) (t : State) (k : Flag) : (pull16 p t).2.flag k = t.flag k := by
  simp [pull16]
@[simp] theorem pull16_kindAt (p : Ptr) (t : State) (w : Word) : (pull16 p t).2.kindAt w = t.kindAt w := by
  simp [pull16]

@[simp] theorem pull16_x (p : Ptr) (t : State) :
    (pull16 p t).2.x = if p = .x then t.x + 2 else t.x := by
  cases p <;> simp [pull16, BitVec.add_assoc]
@[simp] theorem pull16_y (p : Ptr) (t : State) :
    (pull16 p t).2.y = if p = .y then t.y + 2 else t.y := by
  cases p <;> simp [pull16, BitVec.add_assoc]
@[simp] theorem pull16_u (p : Ptr) (t : State) :
    (pull16 p t).2.u = if p = .u then t.u + 2 else t.u := by
  cases p <;> simp [pull16, BitVec.add_assoc]
@[simp] theorem pull16_s (p : Ptr) (t : State) :
    (pull16 p t).2.s = if p = .s then t.s + 2 else t.s := by
  cases p <;> simp [pull16, BitVec.add_assoc]

theorem pull16_ptr (p q : Ptr) (t : State) : (pull16 p t).2.ptr q = if q = p then t.ptr p + 2 else t.ptr q := by
  cases p <;> cases q <;> simp [State.ptr]

theorem pull8_wf (p : Ptr) (t : State) (h : Memory.wf t.mem = true) : Memory.wf (pull8 p t).2.mem = true := by
  simpa [pull8] using readByte_wf (t.ptr p) t h

theorem pull16_wf (p : Ptr) (t : State) (h : Memory.wf t.mem = true) : Memory.wf (pull16 p t).2.mem = true :=
  pull8_wf _ _ (pull8_wf _ _ h)

theorem pull8_quiet (p : Ptr) (t : State) (h : t.agent = []) :
    (pull8 p t).2.mem = t.mem ∧ (pull8 p t).2.agent = [] := by
  simpa [pull8] using readByte_quiet (t.ptr p) t h

theorem pull16_quiet (p : Ptr) (t : State) (h : t.agent = []) :
    (pull16 p t).2.mem = t.mem ∧ (pull16 p t).2.agent = [] := by
  obtain ⟨h1, h2⟩ := pull8_quiet p t h
  obtain ⟨h3, h4⟩ := pull8_quiet p _ h2
  exact ⟨h3.trans h1, h4⟩

theorem State.setPtr_recordCycle (t : State) (p : Ptr) (v : Word) (c : BusCycle) :
    (recordCycle c t).setPtr p v = recordCycle c (t.setPtr p v) := by cases p <;> rfl

/-- A pull from plain memory with no other bus master: the byte, a cycle on the record, the pointer one higher. -/
theorem pull8_plain (p : Ptr) (t : State) (h : t.agent = [])
    (hk : t.kindAt (t.ptr p) = .ram ∨ t.kindAt (t.ptr p) = .rom) :
    pull8 p t = (t.peek (t.ptr p),
      recordCycle (.read (t.ptr p) (t.peek (t.ptr p))) (t.setPtr p (t.ptr p + 1))) := by
  unfold pull8
  rw [readByte_plain _ t h hk, ← State.setPtr_recordCycle]

end Sys2Proof.Machine
end

