-- ==== Sys2Proof/Laws/Decode.lean ====
section
/-! SUPPORT. What each parser of operand bytes answers on the bytes the encoder writes, and that more bytes never change
an answer. -/

namespace Sys2Proof

open Sys2Proof.Machine

/-! ## Operand bytes, encoded and parsed -/

theorem takeWord_wordBytes (k : Word → Instr) (v : Word) (rest : List Byte) :
    takeWord k (wordBytes v ++ rest) = .done (k v) rest := by
  simp [takeWord, wordBytes]

/-- The fields of a postbyte with bit 7 clear (R97, R137). -/
theorem off5_fields : ∀ (rr : BitVec 2) (n : BitVec 5),
    (0#1 ++ rr ++ n : BitVec (1 + 2 + 5)).getLsbD 7 = false ∧
    (0#1 ++ rr ++ n : BitVec (1 + 2 + 5)).extractLsb' 5 2 = rr ∧
    (0#1 ++ rr ++ n : BitVec (1 + 2 + 5)).extractLsb' 0 5 = n := by decide

/-- The fields of a postbyte with bit 7 set (R97). -/
theorem postbyte_fields : ∀ (rr : BitVec 2) (ind : Bool) (mode : BitVec 4),
    (postbyte rr ind mode).getLsbD 7 = true ∧ (postbyte rr ind mode).extractLsb' 5 2 = rr ∧
    (postbyte rr ind mode).getLsbD 4 = ind ∧ (postbyte rr ind mode).extractLsb' 0 4 = mode := by decide

theorem ptr_bits (r : Ptr) : Ptr.ofBits r.toBits = r := by cases r <;> rfl

theorem takeIndexed_encode (k : Indexed → Instr) (i : Indexed) (rest : List Byte) :
    takeIndexed k (encodeIndexed i ++ rest) = .done (k i) rest := by
  cases i with
  | off5 r n =>
    obtain ⟨h1, h2, h3⟩ := off5_fields r.toBits n
    simp only [encodeIndexed, List.cons_append, List.nil_append, takeIndexed, indexedShape, h1, h2, h3, ptr_bits]
    rfl
  | extInd addr =>
    simp only [encodeIndexed, List.cons_append, takeIndexed]
    have : indexedShape 0x9F = some (.word .extInd) := by rfl
    rw [this]
    exact takeWord_wordBytes _ _ _
  | inc1 r =>
    obtain ⟨h1, h2, h3, h4⟩ := postbyte_fields r.toBits false 0
    simp only [encodeIndexed, List.cons_append, List.nil_append, takeIndexed, indexedShape, h1, h2, h3, h4, ptr_bits]
    rfl
  | dec1 r =>
    obtain ⟨h1, h2, h3, h4⟩ := postbyte_fields r.toBits false 2
    simp only [encodeIndexed, List.cons_append, List.nil_append, takeIndexed, indexedShape, h1, h2, h3, h4, ptr_bits]
    rfl
  | inc2 r ind =>
    obtain ⟨h1, h2, h3, h4⟩ := postbyte_fields r.toBits ind 1
    simp only [encodeIndexed, List.cons_append, List.nil_append, takeIndexed, indexedShape, h1, h2, h3, h4, ptr_bits]
    rfl
  | dec2 r ind =>
    obtain ⟨h1, h2, h3, h4⟩ := postbyte_fields r.toBits ind 3
    simp only [encodeIndexed, List.cons_append, List.nil_append, takeIndexed, indexedShape, h1, h2, h3, h4, ptr_bits]
    rfl
  | noOff r ind =>
    obtain ⟨h1, h2, h3, h4⟩ := postbyte_fields r.toBits ind 4
    simp only [encodeIndexed, List.cons_append, List.nil_append, takeIndexed, indexedShape, h1, h2, h3, h4, ptr_bits]
    rfl
  | accB r ind =>
    obtain ⟨h1, h2, h3, h4⟩ := postbyte_fields r.toBits ind 5
    simp only [encodeIndexed, List.cons_append, List.nil_append, takeIndexed, indexedShape, h1, h2, h3, h4, ptr_bits]
    rfl
  | accA r ind =>
    obtain ⟨h1, h2, h3, h4⟩ := postbyte_fields r.toBits ind 6
    simp only [encodeIndexed, List.cons_append, List.nil_append, takeIndexed, indexedShape, h1, h2, h3, h4, ptr_bits]
    rfl
  | accD r ind =>
    obtain ⟨h1, h2, h3, h4⟩ := postbyte_fields r.toBits ind 11
    simp only [encodeIndexed, List.cons_append, List.nil_append, takeIndexed, indexedShape, h1, h2, h3, h4, ptr_bits]
    rfl
  | off8 r n ind =>
    obtain ⟨h1, h2, h3, h4⟩ := postbyte_fields r.toBits ind 8
    simp only [encodeIndexed, List.cons_append, List.nil_append, takeIndexed, indexedShape, h1, h2, h3, h4, ptr_bits]
    rfl
  | off16 r n ind =>
    obtain ⟨h1, h2, h3, h4⟩ := postbyte_fields r.toBits ind 9
    simp only [encodeIndexed, List.cons_append, takeIndexed, indexedShape, h1, h2, h3, h4, ptr_bits]
    exact takeWord_wordBytes _ _ _
  | pcr8 rr n ind =>
    obtain ⟨h1, h2, h3, h4⟩ := postbyte_fields rr ind 12
    simp only [encodeIndexed, List.cons_append, List.nil_append, takeIndexed, indexedShape, h1, h2, h3, h4]
    rfl
  | pcr16 rr n ind =>
    obtain ⟨h1, h2, h3, h4⟩ := postbyte_fields rr ind 13
    simp only [encodeIndexed, List.cons_append, takeIndexed, indexedShape, h1, h2, h3, h4]
    exact takeWord_wordBytes _ _ _

/-- The two nibbles of a register pair (R100). -/
theorem pair_fields : ∀ x y : BitVec 4,
    (x ++ y : BitVec (4 + 4)).extractLsb' 4 4 = x ∧ (x ++ y : BitVec (4 + 4)).extractLsb' 0 4 = y := by decide

theorem takePair_encode (k : Reg → Reg → Instr) (p q : Reg) (rest : List Byte) (h : p.sameSize q = true) :
    takePair k (pairByte p q :: rest) = .done (k p q) rest := by
  have e : ∀ r : Reg, Reg.ofCode r.code = some r := by intro r; cases r <;> rfl
  simp [takePair, pairByte, pair_fields, e, h]

/-! ## More bytes change no answer -/

/-- A parse with more bytes after those it has looked at. -/
def Parse.extend (x : List Byte) : Parse → Parse
  | .more => .more
  | .done i rest => .done i (rest ++ x)
  | .illegal e => .illegal e
/-- Once a parser answers, more bytes do not change its answer. -/
def Stable (f : List Byte → Parse) : Prop := ∀ l x, f l ≠ .more → f (l ++ x) = Parse.extend x (f l)
theorem takeByte_stable (k : Byte → Instr) : Stable (takeByte k) := by
  intro l x h; cases l with
  | nil => exact absurd rfl h
  | cons a l => rfl
theorem takeWord_stable (k : Word → Instr) : Stable (takeWord k) := by
  intro l x h; match l with
  | [] => exact absurd rfl h
  | [_] => exact absurd rfl h
  | a :: b :: l => rfl
theorem takePair_stable (k : Reg → Reg → Instr) : Stable (takePair k) := by
  intro l x h; cases l with
  | nil => exact absurd rfl h
  | cons a l => 
    simp only [List.cons_append, takePair]
    split
    · split <;> rfl
    · rfl
theorem takeIndexed_stable (k : Indexed → Instr) : Stable (takeIndexed k) := by
  intro l x h; cases l with
  | nil => exact absurd rfl h
  | cons a l => 
    simp only [List.cons_append, takeIndexed] at h ⊢
    split
    · rfl
    · rfl
    · rename_i f e; rw [e] at h; exact takeByte_stable _ l x h
    · rename_i f e; rw [e] at h; exact takeWord_stable _ l x h
theorem shape_stable (s : Shape) : Stable s.parse := by
  cases s
  · intro l x h; rfl
  · exact takeByte_stable _
  · exact takeWord_stable _
  · exact takeByte_stable _
  · exact takeWord_stable _
  · exact takeIndexed_stable _
  · exact takeByte_stable _
  · exact takeWord_stable _
  · exact takePair_stable _
  · exact takeByte_stable _
/-- The decoder never takes back an answer when more bytes follow (30_encoding.md R111). -/
theorem decode_stable : Stable decode := by
  intro l x h
  match l with
  | [] => exact absurd rfl h
  | b0 :: l =>
    simp only [List.cons_append, decode] at h ⊢
    split
    · rename_i hb
      rw [if_pos hb] at h
      match l with
      | [] => exact absurd rfl h
      | b1 :: l =>
        simp only [List.cons_append] at h ⊢
        split
        · rfl
        · rename_i e; rw [e] at h; exact shape_stable _ l x h
    · rename_i hb
      rw [if_neg hb] at h
      split
      · rfl
      · rename_i e; rw [e] at h; exact shape_stable _ l x h

end Sys2Proof
end

