-- ==== Sys2Proof/Laws/Touches.lean ====
section
/-! SUPPORT. How `Touches` composes, and what each update and each shared operation touches. -/

namespace Sys2Proof.Machine

/-! ## Composing -/

theorem Touches.refl (t : State) : Touches [] [] [] t t :=
  ⟨fun _ _ => rfl, fun _ _ => rfl, rfl, rfl, fun q => ⟨q, fun _ _ => rfl⟩⟩

theorem Touches.mono {locs locs' : List Loc} {flags flags' : List Flag} {stores stores' : List Word} {t t' : State}
    (h : Touches locs flags stores t t') (hl : ∀ l ∈ locs, l ∈ locs') (hf : ∀ k ∈ flags, k ∈ flags')
    (hs : ∀ addr ∈ stores, addr ∈ stores') : Touches locs' flags' stores' t t' := by
  obtain ⟨h1, h2, h3, h4, h5⟩ := h
  exact ⟨fun l n => h1 l (fun m => n (hl l m)), fun k n => h2 k (fun m => n (hf k m)), h3, h4,
    fun q => ⟨(h5 q).1, fun addr n => (h5 q).2 addr (fun m => n (hs addr m))⟩⟩

theorem Touches.trans {l₁ l₂ : List Loc} {f₁ f₂ : List Flag} {s₁ s₂ : List Word} {t t' t'' : State}
    (h : Touches l₁ f₁ s₁ t t') (h' : Touches l₂ f₂ s₂ t' t'') : Touches (l₁ ++ l₂) (f₁ ++ f₂) (s₁ ++ s₂) t t'' := by
  obtain ⟨a1, a2, a3, a4, a5⟩ := h
  obtain ⟨b1, b2, b3, b4, b5⟩ := h'
  refine ⟨fun l n => ?_, fun k n => ?_, b3.trans a3, b4.trans a4, fun q => ⟨(b5 (a5 q).1).1, fun addr n => ?_⟩⟩
  · simp only [List.mem_append, not_or] at n
    exact (b1 l n.2).trans (a1 l n.1)
  · simp only [List.mem_append, not_or] at n
    exact (b2 k n.2).trans (a2 k n.1)
  · simp only [List.mem_append, not_or] at n
    exact ((b5 (a5 q).1).2 addr n.2).trans ((a5 q).2 addr n.1)

/-- A step that touches no more than the lists allow, after one that does not either. -/
theorem Touches.andThen {locs : List Loc} {flags : List Flag} {stores : List Word} {t t' t'' : State}
    (h : Touches locs flags stores t t') (h' : Touches locs flags stores t' t'') : Touches locs flags stores t t'' :=
  (h.trans h').mono (by simp) (by simp) (by simp)

/-! ## Updates of one field -/

theorem touches_setA (t : State) (v : Byte) : Touches [.a] [] [] t (t.setA v) :=
  ⟨fun l n => by cases l <;> first | rfl | exact absurd (List.mem_singleton.mpr rfl) n, fun _ _ => rfl, rfl, rfl,
    fun q => ⟨q, fun _ _ => rfl⟩⟩

theorem touches_setB (t : State) (v : Byte) : Touches [.b] [] [] t (t.setB v) :=
  ⟨fun l n => by cases l <;> first | rfl | exact absurd (List.mem_singleton.mpr rfl) n, fun _ _ => rfl, rfl, rfl,
    fun q => ⟨q, fun _ _ => rfl⟩⟩

theorem touches_setDp (t : State) (v : Byte) : Touches [.dp] [] [] t (t.setDp v) :=
  ⟨fun l n => by cases l <;> first | rfl | exact absurd (List.mem_singleton.mpr rfl) n, fun _ _ => rfl, rfl, rfl,
    fun q => ⟨q, fun _ _ => rfl⟩⟩

theorem touches_setX (t : State) (v : Word) : Touches [.x] [] [] t (t.setX v) :=
  ⟨fun l n => by cases l <;> first | rfl | exact absurd (List.mem_singleton.mpr rfl) n, fun _ _ => rfl, rfl, rfl,
    fun q => ⟨q, fun _ _ => rfl⟩⟩

theorem touches_setY (t : State) (v : Word) : Touches [.y] [] [] t (t.setY v) :=
  ⟨fun l n => by cases l <;> first | rfl | exact absurd (List.mem_singleton.mpr rfl) n, fun _ _ => rfl, rfl, rfl,
    fun q => ⟨q, fun _ _ => rfl⟩⟩

theorem touches_setU (t : State) (v : Word) : Touches [.u] [] [] t (t.setU v) :=
  ⟨fun l n => by cases l <;> first | rfl | exact absurd (List.mem_singleton.mpr rfl) n, fun _ _ => rfl, rfl, rfl,
    fun q => ⟨q, fun _ _ => rfl⟩⟩

theorem touches_setS (t : State) (v : Word) : Touches [.s] [] [] t (t.setS v) :=
  ⟨fun l n => by cases l <;> first | rfl | exact absurd (List.mem_singleton.mpr rfl) n, fun _ _ => rfl, rfl, rfl,
    fun q => ⟨q, fun _ _ => rfl⟩⟩

theorem touches_setPc (t : State) (v : Word) : Touches [.pc] [] [] t (t.setPc v) :=
  ⟨fun l n => by cases l <;> first | rfl | exact absurd (List.mem_singleton.mpr rfl) n, fun _ _ => rfl, rfl, rfl,
    fun q => ⟨q, fun _ _ => rfl⟩⟩

theorem touches_setNmiArmed (t : State) (v : Bool) : Touches [.nmiArmed] [] [] t (t.setNmiArmed v) :=
  ⟨fun l n => by cases l <;> first | rfl | exact absurd (List.mem_singleton.mpr rfl) n, fun _ _ => rfl, rfl, rfl,
    fun q => ⟨q, fun _ _ => rfl⟩⟩

theorem touches_setNmiPending (t : State) (v : Bool) : Touches [.nmiPending] [] [] t (t.setNmiPending v) :=
  ⟨fun l n => by cases l <;> first | rfl | exact absurd (List.mem_singleton.mpr rfl) n, fun _ _ => rfl, rfl, rfl,
    fun q => ⟨q, fun _ _ => rfl⟩⟩

theorem touches_setRun (t : State) (v : RunState) : Touches [.run] [] [] t (t.setRun v) :=
  ⟨fun l n => by cases l <;> first | rfl | exact absurd (List.mem_singleton.mpr rfl) n, fun _ _ => rfl, rfl, rfl,
    fun q => ⟨q, fun _ _ => rfl⟩⟩

theorem touches_setCc (t : State) (v : Byte) : Touches [] allFlags [] t (t.setCc v) :=
  ⟨fun l _ => by cases l <;> rfl, fun k n => by cases k <;> exact absurd (by decide) n, rfl, rfl,
    fun q => ⟨q, fun _ _ => rfl⟩⟩

theorem touches_setFreeCount (t : State) (n : Nat) : Touches [] [] [] t (t.setFreeCount n) :=
  ⟨fun l _ => by cases l <;> rfl, fun _ _ => rfl, rfl, rfl, fun q => ⟨q, fun _ _ => rfl⟩⟩

theorem touches_setPtr (t : State) (p : Ptr) (v : Word) : Touches [ptrLoc p] [] [] t (t.setPtr p v) := by
  cases p
  · exact touches_setX t v
  · exact touches_setY t v
  · exact touches_setU t v
  · exact touches_setS t v

theorem touches_setAcc (t : State) (r : Acc) (v : Byte) : Touches [r.loc] [] [] t (t.setAcc r v) := by
  cases r
  · exact touches_setA t v
  · exact touches_setB t v

theorem touches_setD (t : State) (v : Word) : Touches [.a, .b] [] [] t (t.setD v) :=
  (touches_setA t _).trans (touches_setB _ _)

theorem touches_setWide (t : State) (r : Wide) (v : Word) : Touches r.locs [] [] t (t.setWide r v) := by
  cases r
  · exact touches_setD t v
  · exact touches_setPtr t _ v

theorem touches_armNmi (t : State) : Touches [.nmiArmed] [] [] t (armNmi t) := touches_setNmiArmed t _

theorem touches_armNmiIf (c : ArmCandidate) (t : State) : Touches [.nmiArmed] [] [] t (armNmiIf c t) :=
  touches_setNmiArmed t _

/-- Arming never blocks NMI. -/
theorem armNmiIf_keeps (c : ArmCandidate) (t : State) (h : t.nmiArmed = true) : (armNmiIf c t).nmiArmed = true := by
  simp [armNmiIf, h]

/-! ## Flags -/

theorem touches_setFlag (t : State) (k : Flag) (b : Bool) : Touches [] [k] [] t (t.setFlag k b) :=
  ⟨fun l _ => by cases l <;> rfl, fun j n => by simp only [List.mem_singleton] at n; simp [n], rfl, rfl,
    fun q => ⟨q, fun _ _ => rfl⟩⟩

theorem touches_freeFlag (t : State) (k : Flag) : Touches [] [k] [] t (t.freeFlag k) :=
  ((touches_setFreeCount t _).trans (touches_setFlag _ k _))

theorem touches_setNZ {w : Nat} (t : State) (r : BitVec w) : Touches [] [.n, .z] [] t (t.setNZ r) :=
  (touches_setFlag t _ _).trans (touches_setFlag _ _ _)

theorem touches_setNZV {w : Nat} (t : State) (r : BitVec w) (v : Bool) : Touches [] [.n, .z, .v] [] t (t.setNZV r v) :=
  (touches_setNZ t r).trans (touches_setFlag _ _ _)

theorem touches_setNZVC {w : Nat} (t : State) (r : BitVec w) (v c : Bool) :
    Touches [] [.n, .z, .v, .c] [] t (t.setNZVC r v c) :=
  (touches_setNZV t r v).trans (touches_setFlag _ _ _)

theorem touches_setNZC {w : Nat} (t : State) (r : BitVec w) (c : Bool) : Touches [] [.n, .z, .c] [] t (t.setNZC r c) :=
  (touches_setNZ t r).trans (touches_setFlag _ _ _)

theorem touches_setLogic {w : Nat} (t : State) (r : BitVec w) : Touches [] [.n, .z, .v] [] t (t.setLogic r) :=
  touches_setNZV t r false

theorem touches_setMasks (setI setF : Bool) (t : State) : Touches [] [.i, .f] [] t (setMasks setI setF t) :=
  (touches_setFlag t _ _).trans (touches_setFlag _ _ _)

/-- N and Z as `setNZ` writes them. -/
theorem signAndZero_setNZ {w : Nat} (t : State) (r : BitVec w) : SignAndZero r (t.setNZ r) := by
  refine ⟨?_, ?_⟩
  · simp [State.setNZ, BitVec.msb]
  · simp only [State.setNZ, State.flag_setFlag, if_true]
    rw [Bool.eq_iff_iff]
    simp [← BitVec.toNat_inj]

/-! ## Accesses -/

theorem State.look_withBus (t : State) (m : Memory) (ag : List (List AgentWrite)) (io : List IoEvent) (bs : List BusCycle) (n : Nat) (l : Loc) :
    (withBus t m ag io bs n).look l = t.look l := by cases l <;> rfl

/-- What holds of a state whose memory, device record, schedule and draws alone differ. -/
theorem touches_withBus (t : State) (m : Memory) (ag : List (List AgentWrite)) (io : List IoEvent) (bs : List BusCycle) (n : Nat)
    (stores : List Word) (h : t.agent = [] → ag = [] ∧ ∀ addr, addr ∉ stores → (t.setMem m).peek addr = t.peek addr) :
    Touches [] [] stores t (withBus t m ag io bs n) :=
  ⟨fun l _ => State.look_withBus t m ag io bs n l, fun _ _ => rfl, rfl, rfl, h⟩

theorem touches_readByteAs (c : Word → Byte → BusCycle) (addr : Word) (t : State) :
    Touches [] [] [] t (readByteAs c addr t).2 := by
  obtain ⟨m, ag, io, bs, n, e⟩ := readByteAs_shape c addr t
  rw [e]
  refine touches_withBus t m ag io bs n [] fun q => ?_
  obtain ⟨h1, h2⟩ := readByteAs_quiet c addr t q
  rw [e] at h1 h2
  exact ⟨h2, fun b _ => by show Memory.read m _ = _; rw [show m = t.mem from h1]; rfl⟩

theorem touches_readByte (addr : Word) (t : State) : Touches [] [] [] t (readByte addr t).2 :=
  touches_readByteAs .read addr t

theorem touches_writeByte (addr : Word) (v : Byte) (t : State) : Touches [] [] [addr] t (writeByte addr v t) := by
  obtain ⟨m, ag, io, bs, n, e⟩ := writeByte_shape addr v t
  rw [e]
  refine touches_withBus t m ag io bs n [addr] fun q => ?_
  obtain ⟨h1, h2⟩ := writeByte_quiet addr v t q
  rw [e] at h1 h2
  exact ⟨h1, fun b hb => h2 b (by simpa using hb)⟩

theorem touches_readWordAs (c : Word → Byte → BusCycle) (addr : Word) (t : State) :
    Touches [] [] [] t (readWordAs c addr t).2 :=
  (touches_readByteAs c addr t).trans (touches_readByteAs c _ _)

theorem touches_readWord (addr : Word) (t : State) : Touches [] [] [] t (readWord addr t).2 :=
  touches_readWordAs .read addr t

theorem touches_writeWord (addr v : Word) (t : State) : Touches [] [] [addr, addr + 1] t (writeWord addr v t) :=
  (touches_writeByte addr _ t).trans (touches_writeByte _ _ _)

/-- The byte a store leaves at its address, where no other bus master is at work. -/
theorem writeByte_peek (addr : Word) (v : Byte) (t : State) (q : Quiet t) (h : Canonical t) :
    (writeByte addr v t).peek addr = storedByte t addr v := by
  unfold writeByte platformWrite storedByte
  rw [agentTurn_none t q]
  rcases hk : t.kindAt addr with _ | _ | _ | _ <;> simp only [reduceCtorEq, if_true, if_false]
  · exact State.peek_poke_same t addr v h
  all_goals rfl

/-- The bytes a store of a word leaves. -/
theorem writeWord_peek (addr v : Word) (t : State) (q : Quiet t) (h : Canonical t) :
    (writeWord addr v t).peek addr = storedByte t addr (highByte v) ∧
    (writeWord addr v t).peek (addr + 1) = storedByte t (addr + 1) (lowByte v) := by
  have q' : Quiet (writeByte addr (highByte v) t) := (writeByte_quiet addr _ t q).1
  have h' : Canonical (writeByte addr (highByte v) t) := writeByte_wf _ _ _ h
  have ne : addr ≠ addr + 1 := by intro e; have := congrArg BitVec.toNat e; simp [BitVec.toNat_add] at this; omega
  refine ⟨?_, ?_⟩
  · unfold writeWord
    rw [(writeByte_quiet (addr + 1) (lowByte v) _ q').2 addr ne]
    exact writeByte_peek addr _ t q h
  · unfold writeWord
    rw [writeByte_peek _ _ _ q' h']
    simp only [storedByte, writeByte_kindAt]
    rw [(writeByte_quiet addr (highByte v) t q).2 (addr + 1) ne.symm]

/-! ## Stack primitives -/

theorem touches_push8 (p : Ptr) (v : Byte) (t : State) : Touches [ptrLoc p] [] [t.ptr p - 1] t (push8 p v t) :=
  (touches_setPtr t p _).trans (touches_writeByte _ v _)

theorem touches_push16 (p : Ptr) (v : Word) (t : State) :
    Touches [ptrLoc p] [] [t.ptr p - 1, t.ptr p - 2] t (push16 p v t) := by
  have h := (touches_push8 p (lowByte v) t).trans (touches_push8 p (highByte v) (push8 p (lowByte v) t))
  rw [push8_ptr, if_pos rfl] at h
  refine h.mono (by simp) (by simp) ?_
  intro a ha
  have e : t.ptr p - 1#16 - 1#16 = t.ptr p - 2#16 := by bv_omega
  simpa [e] using ha

theorem touches_pull8 (p : Ptr) (t : State) : Touches [ptrLoc p] [] [] t (pull8 p t).2 :=
  (touches_readByte _ t).trans (touches_setPtr _ p _)

theorem touches_pull16 (p : Ptr) (t : State) : Touches [ptrLoc p] [] [] t (pull16 p t).2 :=
  (touches_pull8 p t).andThen (touches_pull8 p _)

theorem touches_loadVector (v : Word) (t : State) : Touches [.pc] [] [] t (loadVector v t) :=
  (touches_readWordAs .acknowledge v t).trans (touches_setPc _ _)

end Sys2Proof.Machine
end

