-- ==== Sys2Proof/Laws/Images.lean ====
section
/-! SUPPORT. Stack images: what a push of a list of bytes leaves in memory, and which pushes of the machine are one. -/

namespace Sys2Proof.Machine

/-! ## Bytes from an address up -/

theorem State.peekBytes_zero (t : State) (addr : Word) : t.peekBytes addr 0 = [] := rfl

theorem State.peekBytes_succ (t : State) (addr : Word) (n : Nat) :
    t.peekBytes addr (n + 1) = t.peek addr :: t.peekBytes (addr + 1) n := by
  simp only [State.peekBytes, List.range_succ_eq_map, List.map_cons, List.map_map]
  congr 1
  · simp
  · apply List.map_congr_left
    intro k _
    simp only [Function.comp_apply]
    congr 1
    apply BitVec.eq_of_toNat_eq
    simp [BitVec.toNat_add]
    omega

theorem State.peekBytes_append (t : State) (addr : Word) (m n : Nat) :
    t.peekBytes addr (m + n) = t.peekBytes addr m ++ t.peekBytes (addr + BitVec.ofNat 16 m) n := by
  induction m generalizing addr with
  | zero => simp [State.peekBytes_zero]
  | succ m ih =>
    have e : addr + 1 + BitVec.ofNat 16 m = addr + BitVec.ofNat 16 (m + 1) := by
      apply BitVec.eq_of_toNat_eq
      simp [BitVec.toNat_add]
      omega
    rw [show m + 1 + n = (m + n) + 1 by omega, State.peekBytes_succ, State.peekBytes_succ, ih, e, List.cons_append]

@[simp] theorem State.length_peekBytes (t : State) (addr : Word) (n : Nat) : (t.peekBytes addr n).length = n := by
  simp [State.peekBytes]

/-- Two states that agree on the bytes of a range. -/
theorem State.peekBytes_congr (t t' : State) (addr : Word) (n : Nat)
    (h : ∀ b ∈ upFrom addr n, t'.peek b = t.peek b) : t'.peekBytes addr n = t.peekBytes addr n :=
  List.map_congr_left fun k hk => h _ (List.mem_map.mpr ⟨k, hk, rfl⟩)

theorem State.peek_of_mem {t t' : State} (h : t'.mem = t.mem) (addr : Word) : t'.peek addr = t.peek addr := by
  unfold State.peek
  rw [h]

/-! ## The addresses below a pointer -/

theorem mem_below {addr b : Word} {n : Nat} : b ∈ below addr n ↔ ∃ k, k < n ∧ b = addr - BitVec.ofNat 16 (k + 1) := by
  simp [below, eq_comm]

theorem below_mono {addr b : Word} {m n : Nat} (h : m ≤ n) (hb : b ∈ below addr m) : b ∈ below addr n := by
  obtain ⟨k, hk, e⟩ := mem_below.mp hb
  exact mem_below.mpr ⟨k, by omega, e⟩

/-! ## Pushing an image -/

/-- The bytes pushed so that they lie in memory in the order of the list: the last one first. -/
def pushImage (p : Ptr) : List Byte → State → State
  | [], t => t
  | v :: rest, t => push8 p v (pushImage p rest t)

theorem pushImage_append (p : Ptr) (l₁ l₂ : List Byte) (t : State) :
    pushImage p (l₁ ++ l₂) t = pushImage p l₁ (pushImage p l₂ t) := by
  induction l₁ with
  | nil => rfl
  | cons v rest ih => simp [pushImage, ih]

theorem pushImage_word (p : Ptr) (v : Word) (t : State) : pushImage p (wordBytes v) t = push16 p v t := rfl

theorem pushImage_ptr (p : Ptr) (image : List Byte) (t : State) :
    (pushImage p image t).ptr p = t.ptr p - BitVec.ofNat 16 image.length := by
  induction image with
  | nil => simp [pushImage]
  | cons v rest ih =>
    simp only [pushImage, push8_ptr, if_true, ih, List.length_cons]
    apply BitVec.eq_of_toNat_eq
    simp [BitVec.toNat_sub]
    omega

theorem pushImage_wf (p : Ptr) (image : List Byte) (t : State) (h : Canonical t) : Canonical (pushImage p image t) := by
  induction image with
  | nil => exact h
  | cons v rest ih => exact push8_wf _ _ _ ih

theorem pushImage_kindAt (p : Ptr) (image : List Byte) (t : State) (addr : Word) :
    (pushImage p image t).kindAt addr = t.kindAt addr := by
  induction image with
  | nil => rfl
  | cons v rest ih => simp [pushImage, ih]

theorem touches_pushImage (p : Ptr) (image : List Byte) (t : State) :
    Touches [ptrLoc p] [] (below (t.ptr p) image.length) t (pushImage p image t) := by
  induction image with
  | nil => exact (Touches.refl t).mono (by simp) (by simp) (by simp)
  | cons v rest ih =>
    have h := touches_push8 p v (pushImage p rest t)
    rw [pushImage_ptr] at h
    refine (ih.mono (fun _ m => m) (fun _ m => m) fun _ m => below_mono (Nat.le_succ _) m).andThen
      (h.mono (fun _ m => m) (fun _ m => m) fun b hb => ?_)
    rw [List.mem_singleton] at hb
    refine mem_below.mpr ⟨rest.length, by simp, hb.trans ?_⟩
    apply BitVec.eq_of_toNat_eq
    simp [BitVec.toNat_sub]
    omega

/-! ## Registers that a push keeps -/

@[simp] theorem pushImage_a (p : Ptr) (l : List Byte) (t : State) : (pushImage p l t).a = t.a := by
  induction l <;> simp_all [pushImage]

@[simp] theorem pushImage_b (p : Ptr) (l : List Byte) (t : State) : (pushImage p l t).b = t.b := by
  induction l <;> simp_all [pushImage]

@[simp] theorem pushImage_dp (p : Ptr) (l : List Byte) (t : State) : (pushImage p l t).dp = t.dp := by
  induction l <;> simp_all [pushImage]

@[simp] theorem pushImage_cc (p : Ptr) (l : List Byte) (t : State) : (pushImage p l t).cc = t.cc := by
  induction l <;> simp_all [pushImage]

@[simp] theorem pushImage_pc (p : Ptr) (l : List Byte) (t : State) : (pushImage p l t).pc = t.pc := by
  induction l <;> simp_all [pushImage]

@[simp] theorem pushImage_nmiArmed (p : Ptr) (l : List Byte) (t : State) : (pushImage p l t).nmiArmed = t.nmiArmed := by
  induction l <;> simp_all [pushImage]

@[simp] theorem pushImage_nmiPending (p : Ptr) (l : List Byte) (t : State) : (pushImage p l t).nmiPending = t.nmiPending := by
  induction l <;> simp_all [pushImage]

@[simp] theorem pushImage_run (p : Ptr) (l : List Byte) (t : State) : (pushImage p l t).run = t.run := by
  induction l <;> simp_all [pushImage]

@[simp] theorem pushImage_pins (p : Ptr) (l : List Byte) (t : State) : (pushImage p l t).pins = t.pins := by
  induction l <;> simp_all [pushImage]

@[simp] theorem pushImage_platform (p : Ptr) (l : List Byte) (t : State) : (pushImage p l t).platform = t.platform := by
  induction l <;> simp_all [pushImage]

theorem pushImage_other (p q : Ptr) (l : List Byte) (t : State) (h : q ≠ p) : (pushImage p l t).ptr q = t.ptr q := by
  induction l <;> simp_all [pushImage, push8_ptr]

/-- An image pushed on a stack in RAM stands in memory from the new pointer upward. -/
theorem pushed_pushImage (p : Ptr) (image : List Byte) (t : State) (hn : image.length ≤ 65536) :
    Pushed p image t (pushImage p image t) := by
  refine ⟨pushImage_ptr p image t, fun q h hram => ?_⟩
  induction image with
  | nil => rfl
  | cons v rest ih =>
    have hn' : rest.length ≤ 65536 := by simp only [List.length_cons] at hn; omega
    have ih := ih hn' fun addr m => hram addr (below_mono (by simp) m)
    have q' : Quiet (pushImage p rest t) := ((touches_pushImage p rest t).2.2.2.2 q).1
    have h' := pushImage_wf p rest t h
    have hp := pushImage_ptr p rest t
    have top : (pushImage p (v :: rest) t).ptr p + 1 = (pushImage p rest t).ptr p := by
      simp only [pushImage, push8_ptr, if_true]
      bv_omega
    rw [List.length_cons, State.peekBytes_succ, top]
    congr 1
    · simp only [pushImage, push8_ptr, if_true]
      unfold push8
      rw [writeByte_peek _ _ _ (by simpa [Quiet] using q') (by simpa [Canonical] using h')]
      simp only [storedByte, State.setPtr_kindAt, pushImage_kindAt]
      rw [if_pos]
      apply hram
      refine mem_below.mpr ⟨rest.length, by simp, ?_⟩
      rw [hp]
      apply BitVec.eq_of_toNat_eq
      simp [BitVec.toNat_sub]
      omega
    · refine (State.peekBytes_congr (pushImage p rest t) _ _ _ fun b hb => ?_).trans ih
      refine (push8_quiet p v _ q').2 b fun e => ?_
      obtain ⟨k, hk, e'⟩ := List.mem_map.mp hb
      rw [List.mem_range] at hk
      rw [← e'] at e
      have := congrArg BitVec.toNat e
      simp [BitVec.toNat_add, BitVec.toNat_sub] at this
      simp only [List.length_cons] at hn
      omega

end Sys2Proof.Machine
end

