-- ==== Sys2Proof/Laws/Moves.lean ====
section
/-! SUPPORT. What each shared operation moves over the bus: how `Moves` composes, and the transfers of each access, push,
pull, operand and vector fetch. -/

namespace Sys2Proof.Machine

/-! ## Composing -/

theorem deviceEvent_congr {t t' : State} (h : t'.platform = t.platform) : deviceEvent t' = deviceEvent t := by
  have k : ∀ addr, t'.kindAt addr = t.kindAt addr := fun addr => by unfold State.kindAt; rw [h]
  funext c
  cases c <;> simp only [deviceEvent, k]

theorem Moves.refl (t : State) : Moves [] t t := ⟨by simp, by simp⟩

theorem Moves.trans {cs ds : List BusCycle} {t t' t'' : State} (h : Moves cs t t') (hp : t'.platform = t.platform)
    (h' : Moves ds t' t'') : Moves (cs ++ ds) t t'' := by
  refine ⟨by rw [h'.1, h.1, List.append_assoc], ?_⟩
  rw [h'.2, h.2, deviceEvent_congr hp, List.filterMap_append, List.append_assoc]

/-- A state that keeps both records moves nothing. -/
theorem Moves.of_records {t t' : State} (hb : t'.bus = t.bus) (hi : t'.io = t.io) : Moves [] t t' :=
  ⟨by simp [State.transfers, hb], by simp [hi]⟩

/-- An update that keeps both records, after the transfers. -/
theorem Moves.andKeeps {cs : List BusCycle} {t t' t'' : State} (h : Moves cs t t') (hb : t''.bus = t'.bus)
    (hi : t''.io = t'.io) : Moves cs t t'' :=
  ⟨by rw [← h.1]; simp [State.transfers, hb], by rw [← h.2, hi]⟩

/-- An update that keeps both records and the platform, before the transfers. -/
theorem Moves.afterKeeps {cs : List BusCycle} {t t' t'' : State} (h : Moves cs t' t'') (hb : t'.bus = t.bus)
    (hi : t'.io = t.io) (hp : t'.platform = t.platform) : Moves cs t t'' := by
  simpa using (Moves.of_records hb hi).trans hp h

/-! ## Accesses -/

theorem foldl_agentWrite_keeps (batch : List AgentWrite) (t : State) :
    (batch.foldl agentWrite t).bus = t.bus ∧ (batch.foldl agentWrite t).io = t.io := by
  obtain ⟨m, h⟩ := foldl_agentWrite_shape batch t
  rw [h]
  exact ⟨rfl, rfl⟩

/-- The other master moves nothing of the MPU's. -/
theorem moves_agentTurn (t : State) : Moves [] t (agentTurn t) := by
  unfold agentTurn
  split
  · exact Moves.refl t
  · exact Moves.of_records rfl rfl
  · rename_i w rest later h
    obtain ⟨hb, hi⟩ := foldl_agentWrite_keeps (w :: rest) t
    have hg : (recordCycle .grant (((w :: rest).foldl agentWrite t).setAgent later)).transfers =
        ((w :: rest).foldl agentWrite t).transfers := by
      unfold State.transfers
      rw [recordCycle_bus, State.setAgent_bus, List.filter_append]
      exact List.append_nil _
    exact ⟨hg.trans (Moves.of_records hb hi).1, (Moves.of_records hb hi).2⟩

/-- One byte read: one transfer, seen by the device at its address. -/
theorem moves_readByteAs (c : Word → Byte → BusCycle) (addr : Word) (t : State)
    (hc : ∀ v, (c addr v).isTransfer = true)
    (hd : ∀ u v, deviceEvent u (c addr v) = if u.kindAt addr = .device then some (.read addr v) else none) :
    Moves [c addr (readByteAs c addr t).1] t (readByteAs c addr t).2 := by
  have h := moves_agentTurn t
  have hp := agentTurn_platform t
  refine Moves.trans (cs := []) h hp ?_
  unfold readByteAs platformRead
  rcases hk : (agentTurn t).kindAt addr with _ | _ | _ | _ <;>
    exact ⟨by simp [State.transfers, hc, drawByte], by simp [hd, hk, drawByte]⟩

theorem moves_readByte (addr : Word) (t : State) :
    Moves [.read addr (readByte addr t).1] t (readByte addr t).2 :=
  moves_readByteAs .read addr t (fun _ => rfl) fun _ _ => rfl

/-- One byte written: one transfer, seen by the device at its address. -/
theorem moves_writeByte (addr : Word) (v : Byte) (t : State) : Moves [.write addr v] t (writeByte addr v t) := by
  have h := moves_agentTurn t
  have hp := agentTurn_platform t
  refine Moves.trans (cs := []) h hp ?_
  unfold writeByte platformWrite
  rcases hk : (agentTurn t).kindAt addr with _ | _ | _ | _ <;>
    exact ⟨by simp [State.transfers, BusCycle.isTransfer, State.poke], by simp [deviceEvent, hk, State.poke]⟩

theorem readByteAs_platform (c : Word → Byte → BusCycle) (addr : Word) (t : State) :
    (readByteAs c addr t).2.platform = t.platform := by
  obtain ⟨m, ag, io, bs, n, h⟩ := readByteAs_shape c addr t
  rw [h, withBus_platform]

theorem moves_readWord (addr : Word) (t : State) :
    Moves (wordReads addr (readWord addr t).1) t (readWord addr t).2 := by
  have h := (moves_readByte addr t).trans (readByteAs_platform _ _ _) (moves_readByte (addr + 1) (readByte addr t).2)
  simpa [wordReads, readWord, readWordAs, readByte] using h

theorem moves_writeWord (addr v : Word) (t : State) : Moves (wordWrites addr v) t (writeWord addr v t) :=
  (moves_writeByte addr _ t).trans (writeByte_platform _ _ _) (moves_writeByte _ _ _)

/-- A vector fetch: two acknowledging reads. -/
theorem moves_loadVector (v : Word) (t : State) : Moves (vectorReads v (loadVector v t).pc) t (loadVector v t) := by
  have one := fun addr t => moves_readByteAs .acknowledge addr t (fun _ => rfl) fun _ _ => rfl
  have h := (one v t).trans (readByteAs_platform _ _ _) (one (v + 1) (readByteAs .acknowledge v t).2)
  have h' := h.andKeeps (t'' := loadVector v t) rfl rfl
  simpa [vectorReads, loadVector, readWordAs] using h'

/-! ## Pushes, pulls and operands -/

theorem moves_push8 (p : Ptr) (v : Byte) (t : State) : Moves [.write (t.ptr p - 1) v] t (push8 p v t) :=
  (moves_writeByte _ v (t.setPtr p (t.ptr p - 1))).afterKeeps (by simp) (by simp) (by simp)

theorem moves_pull8 (p : Ptr) (t : State) : Moves [.read (t.ptr p) (pull8 p t).1] t (pull8 p t).2 :=
  (moves_readByte (t.ptr p) t).andKeeps (by simp [pull8]) (by simp [pull8])

theorem indexedUpdate_keeps (i : Indexed) (t : State) : (indexedUpdate i t).bus = t.bus ∧
    (indexedUpdate i t).io = t.io ∧ (indexedUpdate i t).platform = t.platform := by
  cases i <;> simp [indexedUpdate]

/-- The address phase moves the two bytes of an indirect pointer, and nothing else. -/
theorem moves_indexedEA (i : Indexed) (t : State) :
    Moves (if indexedIndirect i then wordReads (indexedBase i t) (indexedEA i t).1 else []) t (indexedEA i t).2 := by
  obtain ⟨hb, hi, hp⟩ := indexedUpdate_keeps i t
  unfold indexedEA
  split
  · exact (moves_readWord _ _).afterKeeps hb hi hp
  · exact Moves.of_records hb hi

end Sys2Proof.Machine
end

