-- ==== Sys2Proof/Laws/Exceptions.lean ====
section
/-! SUPPORT. Register lists, taking an exception and returning from one: each as one push of an image or one pull, with
what it touches and that it keeps the canonical form of memory. -/

namespace Sys2Proof.Machine

/-! ## Pushes of many registers -/

/-- The twelve bytes of the entire state are one image. -/
theorem stackEntire_eq (t : State) : stackEntire t = pushImage .s (entireImage t.cc t) t := by
  simp [stackEntire, entireImage, pushImage, wordBytes, push16]

/-- One byte register of a list, pushed or not. -/
theorem whenListed_push8 (p : Ptr) (regs : Byte) (bit : Nat) (f : State → Byte) (t : State) :
    whenListed regs bit (fun t => push8 p (f t) t) t = pushImage p (ifListed regs bit [f t]) t := by
  unfold whenListed ifListed
  split <;> rfl

/-- One word register of a list, pushed or not. -/
theorem whenListed_push16 (p : Ptr) (regs : Byte) (bit : Nat) (f : State → Word) (t : State) :
    whenListed regs bit (fun t => push16 p (f t) t) t = pushImage p (ifListed regs bit (wordBytes (f t))) t := by
  unfold whenListed ifListed
  split <;> rfl

/-- A list of registers is one image (44_stack_transfer.md R291). -/
theorem pushList_eq (p : Ptr) (regs : Byte) (t : State) (h : p = .s ∨ p = .u) :
    pushList p regs t = pushImage p (listImage p regs t) t := by
  have hx : ∀ l t, (pushImage p l t).x = t.x := fun l t => pushImage_other p .x l t (by rcases h with rfl | rfl <;> decide)
  have hy : ∀ l t, (pushImage p l t).y = t.y := fun l t => pushImage_other p .y l t (by rcases h with rfl | rfl <;> decide)
  have ho : ∀ l t, (pushImage p l t).ptr (otherStack p) = t.ptr (otherStack p) := fun l t =>
    pushImage_other p _ l t (by rcases h with rfl | rfl <;> decide)
  simp only [pushList, listImage, pushImage_append, whenListed_push8, whenListed_push16, pushImage_a, pushImage_b,
    pushImage_dp, pushImage_cc, hx, hy, ho]

/-- The bytes of a list are as many as its bits say. -/
theorem length_listImage (p : Ptr) (regs : Byte) (t : State) : (listImage p regs t).length = listCount regs := by
  have h : ∀ bit (l : List Byte), (ifListed regs bit l).length = (regs.getLsbD bit).toNat * l.length := by
    intro bit l; unfold ifListed; cases regs.getLsbD bit <;> simp
  simp only [listImage, List.length_append, h, wordBytes, List.length_cons, List.length_nil, listCount]
  omega

theorem touches_pushList (p : Ptr) (regs : Byte) (t : State) (h : p = .s ∨ p = .u) :
    Touches [ptrLoc p] [] (below (t.ptr p) (listCount regs)) t (pushList p regs t) := by
  rw [pushList_eq p regs t h, ← length_listImage p regs t]
  exact touches_pushImage p _ t

theorem pushList_wf (p : Ptr) (regs : Byte) (t : State) (hp : p = .s ∨ p = .u) (h : Canonical t) :
    Canonical (pushList p regs t) := by
  rw [pushList_eq p regs t hp]
  exact pushImage_wf p _ t h

/-! ## Pulls -/

/-- The two cycles of a word read from plain memory, on the record. -/
def recordWord (addr v : Word) (t : State) : State :=
  recordCycle (.read (addr + 1) (lowByte v)) (recordCycle (.read addr (highByte v)) t)

@[simp] theorem recordWord_mem (addr v : Word) (t : State) : (recordWord addr v t).mem = t.mem := rfl
@[simp] theorem recordWord_agent (addr v : Word) (t : State) : (recordWord addr v t).agent = t.agent := rfl
@[simp] theorem recordWord_platform (addr v : Word) (t : State) : (recordWord addr v t).platform = t.platform := rfl
@[simp] theorem recordWord_cc (addr v : Word) (t : State) : (recordWord addr v t).cc = t.cc := rfl
@[simp] theorem recordWord_ptr (addr v : Word) (t : State) (r : Ptr) : (recordWord addr v t).ptr r = t.ptr r := by
  simp [recordWord]

/-- A word pulled from plain memory with no other bus master. -/
theorem pull16_plain (p : Ptr) (t : State) (q : Quiet t) (h : Plain t (t.ptr p)) (h' : Plain t (t.ptr p + 1)) :
    pull16 p t = (t.peekWord (t.ptr p),
      recordWord (t.ptr p) (t.peekWord (t.ptr p)) (t.setPtr p (t.ptr p + 2))) := by
  unfold pull16
  rw [pull8_plain p t q h]
  simp only
  rw [pull8_plain p _ (by simpa [Quiet] using q) (by simpa [Plain] using h')]
  have e : t.ptr p + 1#16 + 1#16 = t.ptr p + 2#16 := by bv_omega
  have e' : ∀ v w : Word, (t.setPtr p v).setPtr p w = t.setPtr p w := by intro v w; cases p <;> rfl
  simp [State.peekWord, recordWord, e, e', State.setPtr_recordCycle]

theorem touches_pullByteTo (p : Ptr) (put : State → Byte → State) (locs : List Loc) (flags : List Flag) (t : State)
    (h : ∀ t v, Touches locs flags [] t (put t v)) : Touches (ptrLoc p :: locs) flags [] t (pullByteTo p put t) :=
  (touches_pull8 p t).trans (h _ _)

theorem touches_pullWordTo (p : Ptr) (put : State → Word → State) (locs : List Loc) (t : State)
    (h : ∀ t v, Touches locs [] [] t (put t v)) : Touches (ptrLoc p :: locs) [] [] t (pullWordTo p put t) :=
  (touches_pull16 p t).trans (h _ _)

theorem pullByteTo_wf (p : Ptr) (put : State → Byte → State) (t : State) (h : Canonical t)
    (hp : ∀ t v, (put t v).mem = t.mem) : Canonical (pullByteTo p put t) := by
  unfold Canonical pullByteTo
  rw [hp]
  exact pull8_wf p t h

theorem pullWordTo_wf (p : Ptr) (put : State → Word → State) (t : State) (h : Canonical t)
    (hp : ∀ t v, (put t v).mem = t.mem) : Canonical (pullWordTo p put t) := by
  unfold Canonical pullWordTo
  rw [hp]
  exact pull16_wf p t h

/-! ## Vectors and entries -/

theorem loadVector_wf (v : Word) (t : State) (h : Canonical t) : Canonical (loadVector v t) := readWordAs_wf _ v t h

/-- PC is the word that plain memory holds at the vector, and the last two transfers acknowledge. -/
theorem loadVector_pc (v : Word) (t : State) : AtVector v t (loadVector v t) := by
  refine ⟨⟨t, rfl⟩, ⟨t.transfers, (moves_loadVector v t).1⟩, fun q h h' => ?_⟩
  unfold loadVector
  rw [readWordAs_plain _ v t q h h']
  rfl

theorem setMasks_wf (setI setF : Bool) (t : State) (h : Canonical t) : Canonical (setMasks setI setF t) := h

/-- The masks after an entry, and every other flag. -/
theorem setMasks_flag (setI setF : Bool) (t : State) (k : Flag) :
    (setMasks setI setF t).flag k =
      if k = .i then t.flag .i || setI else if k = .f then t.flag .f || setF else t.flag k := by
  cases k <;> simp [setMasks]

/-- The entry that stacks the entire state, as one push of an image. -/
theorem takeException_entire (setI setF : Bool) (v : Word) (t : State) :
    takeException .entire setI setF v t =
      loadVector v (setMasks setI setF (pushImage .s (entireImage (writeFlag t.cc .e true) t) (t.setFlag .e true))) := by
  simp only [takeException, pushFrame, stackEntire_eq]
  rfl

theorem touches_takeException_entire (setI setF : Bool) (v : Word) (t : State) :
    Touches [.s, .pc] [.e, .i, .f] (below t.s 12) t (takeException .entire setI setF v t) := by
  rw [takeException_entire]
  have h := (((touches_setFlag t .e true).trans (touches_pushImage .s (entireImage (writeFlag t.cc .e true) t) _)).trans
    (touches_setMasks setI setF _)).trans (touches_loadVector v _)
  exact h.mono (by simp [ptrLoc]) (by simp) (by simp [entireImage, wordBytes, State.ptr])

theorem takeException_entire_wf (setI setF : Bool) (v : Word) (t : State) (h : Canonical t) :
    Canonical (takeException .entire setI setF v t) := by
  rw [takeException_entire]
  exact loadVector_wf _ _ (setMasks_wf _ _ _ (pushImage_wf _ _ _ h))

theorem touches_takeException_subset (setI setF : Bool) (v : Word) (t : State) :
    Touches [.s, .pc] [.e, .i, .f] (below t.s 3) t (takeException .subset setI setF v t) := by
  have h := ((((touches_push16 .s t.pc t).trans (touches_setFlag _ .e false)).trans (touches_push8 .s
    ((push16 .s t.pc t).setFlag .e false).cc _)).trans (touches_setMasks setI setF _)).trans (touches_loadVector v _)
  refine h.mono (by simp [ptrLoc]) (by simp) fun b hb => ?_
  have e : t.s - 2#16 - 1#16 = t.s - 3#16 := by bv_omega
  simp only [State.ptr, push16_s, State.setFlag_s, if_true, List.mem_append, List.mem_cons, List.not_mem_nil, or_false] at hb
  rw [mem_below]
  rcases hb with (hb | hb) | hb
  · exact ⟨0, by decide, hb⟩
  · exact ⟨1, by decide, hb⟩
  · exact ⟨2, by decide, hb.trans e⟩

theorem takeException_subset_wf (setI setF : Bool) (v : Word) (t : State) (h : Canonical t) :
    Canonical (takeException .subset setI setF v t) :=
  loadVector_wf _ _ (setMasks_wf _ _ _ (push8_wf _ _ _ (push16_wf _ _ _ h)))

theorem touches_takeException_stacked (setI setF : Bool) (v : Word) (t : State) :
    Touches [.pc] [.i, .f] [] t (takeException .stacked setI setF v t) :=
  (touches_setMasks setI setF t).trans (touches_loadVector v _)

/-! ## The return from an exception -/

theorem touches_pullEntire (t : State) : Touches [.s, .a, .b, .dp, .x, .y, .u] [] [] t (pullEntire t) := by
  have a := touches_pullByteTo .s State.setA [.a] [] t touches_setA
  have b := fun t => touches_pullByteTo .s State.setB [.b] [] t touches_setB
  have dp := fun t => touches_pullByteTo .s State.setDp [.dp] [] t touches_setDp
  have x := fun t => touches_pullWordTo .s State.setX [.x] t touches_setX
  have y := fun t => touches_pullWordTo .s State.setY [.y] t touches_setY
  have u := fun t => touches_pullWordTo .s State.setU [.u] t touches_setU
  exact (((((a.trans (b _)).trans (dp _)).trans (x _)).trans (y _)).trans (u _)).mono (by simp [ptrLoc]) (by simp)
    (by simp)

theorem pullEntire_wf (t : State) (h : Canonical t) : Canonical (pullEntire t) := by
  unfold pullEntire
  simp only
  refine pullWordTo_wf _ _ _ ?_ fun _ _ => rfl
  refine pullWordTo_wf _ _ _ ?_ fun _ _ => rfl
  refine pullWordTo_wf _ _ _ ?_ fun _ _ => rfl
  refine pullByteTo_wf _ _ _ ?_ fun _ _ => rfl
  refine pullByteTo_wf _ _ _ ?_ fun _ _ => rfl
  exact pullByteTo_wf _ _ _ h fun _ _ => rfl

theorem touches_returnFromException (t : State) :
    Touches [.s, .a, .b, .dp, .x, .y, .u, .pc] allFlags [] t (returnFromException t) := by
  have c := touches_pullByteTo .s State.setCc [] allFlags t touches_setCc
  have pc := fun t => touches_pullWordTo .s State.setPc [.pc] t touches_setPc
  unfold returnFromException
  simp only
  split
  · exact ((c.trans (touches_pullEntire _)).trans (pc _)).mono (by simp [ptrLoc]) (by simp) (by simp)
  · exact (c.trans (pc _)).mono (by simp [ptrLoc]) (by simp) (by simp)

theorem returnFromException_wf (t : State) (h : Canonical t) : Canonical (returnFromException t) := by
  unfold returnFromException
  simp only
  refine pullWordTo_wf _ _ _ ?_ fun _ _ => rfl
  split
  · exact pullEntire_wf _ (pullByteTo_wf _ _ _ h fun _ _ => rfl)
  · exact pullByteTo_wf _ _ _ h fun _ _ => rfl

/-! ## Pulls of a list -/

theorem touches_whenListed (regs : Byte) (bit : Nat) (op : State → State) (t : State) (p : Ptr) (locs : List Loc)
    (flags : List Flag) (h : ∀ t, Touches (ptrLoc p :: locs) flags [] t (op t)) :
    Touches (ptrLoc p :: if regs.getLsbD bit then locs else []) (if regs.getLsbD bit then flags else []) [] t
      (whenListed regs bit op t) := by
  unfold whenListed
  split
  · exact h t
  · exact (Touches.refl t).mono (by simp) (by simp) (by simp)

theorem whenListed_wf (regs : Byte) (bit : Nat) (op : State → State) (t : State) (h : Canonical t)
    (ho : ∀ t, Canonical t → Canonical (op t)) : Canonical (whenListed regs bit op t) := by
  unfold whenListed
  split
  · exact ho t h
  · exact h

theorem touches_pullListed (p : Ptr) (regs : Byte) (t : State) :
    Touches (ptrLoc p :: listLocs p regs) (if regs.getLsbD 0 then allFlags else []) [] t
      (pullListed p regs t) := by
  have c := touches_whenListed regs 0 _ t p _ _ fun t => touches_pullByteTo p State.setCc [] allFlags t touches_setCc
  have a := fun t => touches_whenListed regs 1 _ t p _ _ fun t => touches_pullByteTo p State.setA [.a] [] t touches_setA
  have b := fun t => touches_whenListed regs 2 _ t p _ _ fun t => touches_pullByteTo p State.setB [.b] [] t touches_setB
  have dp := fun t => touches_whenListed regs 3 _ t p _ _ fun t =>
    touches_pullByteTo p State.setDp [.dp] [] t touches_setDp
  have x := fun t => touches_whenListed regs 4 _ t p _ _ fun t => touches_pullWordTo p State.setX [.x] t touches_setX
  have y := fun t => touches_whenListed regs 5 _ t p _ _ fun t => touches_pullWordTo p State.setY [.y] t touches_setY
  have o := fun t => touches_whenListed regs 6 _ t p _ _ fun t =>
    touches_pullWordTo p (fun t v => t.setPtr (otherStack p) v) [ptrLoc (otherStack p)] t fun t v => touches_setPtr t _ v
  refine ((((((c.trans (a _)).trans (b _)).trans (dp _)).trans (x _)).trans (y _)).trans (o _)).mono ?_ (by simp)
    (by simp)
  intro l hl
  simp only [listLocs, List.mem_append, List.mem_cons] at hl ⊢
  grind

theorem pullListed_wf (p : Ptr) (regs : Byte) (t : State) (h : Canonical t) : Canonical (pullListed p regs t) := by
  unfold pullListed
  simp only
  refine whenListed_wf _ _ _ _ ?_ fun t h => pullWordTo_wf _ _ t h (by simp)
  refine whenListed_wf _ _ _ _ ?_ fun t h => pullWordTo_wf _ _ t h (by simp)
  refine whenListed_wf _ _ _ _ ?_ fun t h => pullWordTo_wf _ _ t h (by simp)
  refine whenListed_wf _ _ _ _ ?_ fun t h => pullByteTo_wf _ _ t h (by simp)
  refine whenListed_wf _ _ _ _ ?_ fun t h => pullByteTo_wf _ _ t h (by simp)
  refine whenListed_wf _ _ _ _ ?_ fun t h => pullByteTo_wf _ _ t h (by simp)
  exact whenListed_wf _ _ _ _ h fun t h => pullByteTo_wf _ _ t h (by simp)

theorem touches_pullPc (p : Ptr) (regs : Byte) (t : State) :
    Touches (ptrLoc p :: if regs.getLsbD 7 then [.pc] else []) [] [] t (pullPc p regs t) :=
  (touches_whenListed regs 7 _ t p _ _ fun t => touches_pullWordTo p State.setPc [.pc] t touches_setPc).mono
    (fun _ m => m) (by simp) (by simp)

theorem pullPc_wf (p : Ptr) (regs : Byte) (t : State) (h : Canonical t) : Canonical (pullPc p regs t) :=
  whenListed_wf _ _ _ _ h fun t h => pullWordTo_wf _ _ t h (by simp)

/-! ## The reset sequence -/

theorem touches_resetSequence (t : State) : Touches [.dp, .pc, .nmiArmed, .run] [.f, .i] [] t (resetSequence t) := by
  have h := ((((touches_setMasks true true t).trans (touches_setDp _ 0x00)).trans (touches_setNmiArmed _ false)).trans
    (touches_setRun _ .running)).trans (touches_loadVector vectorReset _)
  exact h.mono (by simp) (by simp) (by simp)

theorem resetSequence_wf (t : State) (h : Canonical t) : Canonical (resetSequence t) := loadVector_wf _ _ h

/-! ## Entries of a request -/

theorem enterInterrupt_wf (r : Request) (t : State) (h : Canonical t) : Canonical (enterInterrupt r t) := by
  cases r
  · exact takeException_entire_wf _ _ _ _ h
  · exact takeException_subset_wf _ _ _ _ h
  · exact takeException_entire_wf _ _ _ _ h

theorem enterFromCwai_wf (r : Request) (t : State) (h : Canonical t) : Canonical (enterFromCwai r t) := by
  cases r <;> exact loadVector_wf _ _ h

end Sys2Proof.Machine
end

