-- ==== Sys2Proof/Laws/Operands.lean ====
section
/-! SUPPORT. What computing an operand or an effective address can do: the pointer register of an auto-increment or
auto-decrement form, the accesses it makes, and nothing else. -/

namespace Sys2Proof.Machine

/-! ## The indexed forms -/

theorem touches_indexedUpdate (i : Indexed) (t : State) : Touches (indexedWrites i) [] [] t (indexedUpdate i t) := by
  cases i <;> first | exact touches_setPtr t _ _ | exact Touches.refl t

/-- An effective address is the base, with the state updated, or the word read there. -/
theorem indexedEA_direct (i : Indexed) (t : State) (h : indexedIndirect i = false) :
    indexedEA i t = (indexedBase i t, indexedUpdate i t) := by simp [indexedEA, h]

theorem indexedEA_indirect (i : Indexed) (t : State) (h : indexedIndirect i = true) :
    indexedEA i t = readWord (indexedBase i t) (indexedUpdate i t) := by simp [indexedEA, h]

/-- Whether or not there is an indirection, the registers are those of the update. -/
theorem indexedEA_registers (i : Indexed) (t : State) : Touches [] [] [] (indexedUpdate i t) (indexedEA i t).2 := by
  cases h : indexedIndirect i
  · rw [indexedEA_direct i t h]; exact Touches.refl _
  · rw [indexedEA_indirect i t h]; exact touches_readWord _ _

theorem touches_indexedEA (i : Indexed) (t : State) : Touches (indexedWrites i) [] [] t (indexedEA i t).2 :=
  ((touches_indexedUpdate i t).trans (indexedEA_registers i t)).mono (by simp) (by simp) (by simp)

theorem indexedUpdate_wf (i : Indexed) (t : State) (h : Canonical t) : Canonical (indexedUpdate i t) := by
  cases i <;> simpa [indexedUpdate, Canonical] using h

theorem indexedEA_wf (i : Indexed) (t : State) (h : Canonical t) : Canonical (indexedEA i t).2 := by
  cases e : indexedIndirect i
  · rw [indexedEA_direct i t e]; exact indexedUpdate_wf i t h
  · rw [indexedEA_indirect i t e]; exact readWord_wf _ _ (indexedUpdate_wf i t h)

/-! ## Operands -/

theorem touches_memEA (m : Mem) (t : State) : Touches (memWrites m) [] [] t (memEA m t).2 := by
  cases m
  · exact Touches.refl t
  · exact touches_indexedEA _ t
  · exact Touches.refl t

theorem touches_operand8 (o : Src8) (t : State) : Touches (src8Writes o) [] [] t (operand8 o t).2 := by
  cases o
  · exact Touches.refl t
  · exact touches_readByte _ t
  · exact ((touches_indexedEA _ t).trans (touches_readByte _ _)).mono (by simp [src8Writes]) (by simp) (by simp)
  · exact touches_readByte _ t

theorem touches_operand16 (o : Src16) (t : State) : Touches (src16Writes o) [] [] t (operand16 o t).2 := by
  cases o
  · exact Touches.refl t
  · exact touches_readWord _ t
  · exact ((touches_indexedEA _ t).trans (touches_readWord _ _)).mono (by simp [src16Writes]) (by simp) (by simp)
  · exact touches_readWord _ t

theorem memEA_wf (m : Mem) (t : State) (h : Canonical t) : Canonical (memEA m t).2 := by
  cases m
  · exact h
  · exact indexedEA_wf _ t h
  · exact h

theorem operand8_wf (o : Src8) (t : State) (h : Canonical t) : Canonical (operand8 o t).2 := by
  cases o
  · exact h
  · exact readByte_wf _ _ h
  · exact readByte_wf _ _ (indexedEA_wf _ t h)
  · exact readByte_wf _ _ h

theorem operand16_wf (o : Src16) (t : State) (h : Canonical t) : Canonical (operand16 o t).2 := by
  cases o
  · exact h
  · exact readWord_wf _ _ h
  · exact readWord_wf _ _ (indexedEA_wf _ t h)
  · exact readWord_wf _ _ h

/-! ## Registers that no operand form writes -/

/-- No indexed form writes a place but a pointer register. -/
theorem indexedWrites_pointers (i : Indexed) (l : Loc) (h : l ∈ indexedWrites i) : ∃ r, l = ptrLoc r := by
  cases i <;> simp only [indexedWrites, List.mem_singleton, List.not_mem_nil] at h <;> exact ⟨_, h⟩

/-- A state that touches only pointer registers keeps the accumulators. -/
theorem Touches.acc {locs : List Loc} {flags : List Flag} {stores : List Word} {t t' : State}
    (h : Touches locs flags stores t t') (r : Acc) (n : r.loc ∉ locs) : t'.acc r = t.acc r := by
  have := h.1 r.loc n
  cases r <;> exact BitVec.eq_of_toNat_eq this

theorem operand8_acc (o : Src8) (t : State) (r : Acc) : (operand8 o t).2.acc r = t.acc r := by
  refine (touches_operand8 o t).acc r fun m => ?_
  cases o with
  | idx i =>
    obtain ⟨p, e⟩ := indexedWrites_pointers i _ m
    cases r <;> cases p <;> simp [Acc.loc, ptrLoc] at e
  | _ => simp [src8Writes] at m

theorem operand8_flag (o : Src8) (t : State) (k : Flag) : (operand8 o t).2.flag k = t.flag k :=
  (touches_operand8 o t).2.1 k (by simp)

theorem operand16_flag (o : Src16) (t : State) (k : Flag) : (operand16 o t).2.flag k = t.flag k :=
  (touches_operand16 o t).2.1 k (by simp)

theorem memEA_flag (m : Mem) (t : State) (k : Flag) : (memEA m t).2.flag k = t.flag k :=
  (touches_memEA m t).2.1 k (by simp)

theorem operand16_acc (o : Src16) (t : State) (r : Acc) : (operand16 o t).2.acc r = t.acc r := by
  refine (touches_operand16 o t).acc r fun m => ?_
  cases o with
  | idx i =>
    obtain ⟨p, e⟩ := indexedWrites_pointers i _ m
    cases r <;> cases p <;> simp [Acc.loc, ptrLoc] at e
  | _ => simp [src16Writes] at m

theorem memEA_acc (m : Mem) (t : State) (r : Acc) : (memEA m t).2.acc r = t.acc r := by
  refine (touches_memEA m t).acc r fun h => ?_
  cases m with
  | idx i =>
    obtain ⟨p, e⟩ := indexedWrites_pointers i _ h
    cases r <;> cases p <;> simp [Acc.loc, ptrLoc] at e
  | _ => simp [memWrites] at h

theorem operand16_d (o : Src16) (t : State) : (operand16 o t).2.d = t.d := by
  have h1 := operand16_acc o t .a
  have h2 := operand16_acc o t .b
  simp only [State.acc] at h1 h2
  simp only [State.d, h1, h2]

end Sys2Proof.Machine
end

