-- ==== Sys2Proof/Laws/Instructions.lean ====
section
/-! SUPPORT. The operations that the instructions share: what each touches, and that each keeps the canonical form of
memory. -/

namespace Sys2Proof.Machine

theorem Canonical.of_mem {t t' : State} (h : Canonical t) (e : t'.mem = t.mem) : Canonical t' := by
  unfold Canonical at *
  rw [e]
  exact h

@[simp] theorem State.setWide_mem (t : State) (r : Wide) (v : Word) : (t.setWide r v).mem = t.mem := by
  cases r with
  | d => rfl
  | ptr p => cases p <;> rfl

theorem writeReg_mem (r : Reg) (v : Word) (t : State) : (writeReg r v t).mem = t.mem := by cases r <;> rfl

/-! ## 8-bit accumulator and memory (41_accumulator_memory_8bit.md) -/

theorem touches_addAcc (r : Acc) (withCarry : Bool) (o : Src8) (t : State) :
    Touches (r.loc :: src8Writes o) [.h, .n, .z, .v, .c] [] t (addAcc r withCarry o t) :=
  ((((touches_operand8 o t).trans (touches_setAcc _ r _)).trans (touches_setFlag _ .h _)).trans
    (touches_setNZVC _ _ _ _)).mono (by simp [or_comm]) (by simp) (by simp)

theorem touches_subAcc (r : Acc) (withBorrow : Bool) (o : Src8) (t : State) :
    Touches (r.loc :: src8Writes o) [.h, .n, .z, .v, .c] [] t (subAcc r withBorrow o t) :=
  ((((touches_operand8 o t).trans (touches_setAcc _ r _)).trans (touches_freeFlag _ .h)).trans
    (touches_setNZVC _ _ _ _)).mono (by simp [or_comm]) (by simp) (by simp)

theorem touches_cmpAcc (r : Acc) (o : Src8) (t : State) :
    Touches (src8Writes o) [.h, .n, .z, .v, .c] [] t (cmpAcc r o t) :=
  (((touches_operand8 o t).trans (touches_freeFlag _ .h)).trans (touches_setNZVC _ _ _ _)).mono (by simp) (by simp)
    (by simp)

theorem touches_logicAcc (r : Acc) (op : Byte → Byte → Byte) (o : Src8) (t : State) :
    Touches (r.loc :: src8Writes o) [.n, .z, .v] [] t (logicAcc r op o t) :=
  (((touches_operand8 o t).trans (touches_setAcc _ r _)).trans (touches_setLogic _ _)).mono (by simp [or_comm])
    (by simp) (by simp)

theorem touches_bitAcc (r : Acc) (o : Src8) (t : State) : Touches (src8Writes o) [.n, .z, .v] [] t (bitAcc r o t) :=
  ((touches_operand8 o t).trans (touches_setLogic _ _)).mono (by simp) (by simp) (by simp)

theorem touches_loadAcc (r : Acc) (o : Src8) (t : State) :
    Touches (r.loc :: src8Writes o) [.n, .z, .v] [] t (loadAcc r o t) :=
  (((touches_operand8 o t).trans (touches_setAcc _ r _)).trans (touches_setLogic _ _)).mono (by simp [or_comm])
    (by simp) (by simp)

theorem touches_storeAcc (r : Acc) (m : Mem) (t : State) :
    Touches (memWrites m) [.n, .z, .v] [(memEA m t).1] t (storeAcc r m t) :=
  (((touches_memEA m t).trans (touches_writeByte _ _ _)).trans (touches_setLogic _ _)).mono (by simp) (by simp) (by simp)

theorem addAcc_wf (r : Acc) (withCarry : Bool) (o : Src8) (t : State) (h : Canonical t) :
    Canonical (addAcc r withCarry o t) := (operand8_wf o t h).of_mem (by simp [addAcc])

theorem subAcc_wf (r : Acc) (withBorrow : Bool) (o : Src8) (t : State) (h : Canonical t) :
    Canonical (subAcc r withBorrow o t) := (operand8_wf o t h).of_mem (by simp [subAcc])

theorem cmpAcc_wf (r : Acc) (o : Src8) (t : State) (h : Canonical t) : Canonical (cmpAcc r o t) :=
  (operand8_wf o t h).of_mem (by simp [cmpAcc])

theorem logicAcc_wf (r : Acc) (op : Byte → Byte → Byte) (o : Src8) (t : State) (h : Canonical t) :
    Canonical (logicAcc r op o t) := (operand8_wf o t h).of_mem (by simp [logicAcc])

theorem bitAcc_wf (r : Acc) (o : Src8) (t : State) (h : Canonical t) : Canonical (bitAcc r o t) :=
  (operand8_wf o t h).of_mem (by simp [bitAcc])

theorem loadAcc_wf (r : Acc) (o : Src8) (t : State) (h : Canonical t) : Canonical (loadAcc r o t) :=
  (operand8_wf o t h).of_mem (by simp [loadAcc])

theorem storeAcc_wf (r : Acc) (m : Mem) (t : State) (h : Canonical t) : Canonical (storeAcc r m t) :=
  writeByte_wf _ _ _ (memEA_wf m t h)

/-! ## Read-modify-write (42_shift_rmw_8bit.md) -/

theorem touches_aslByte (m : Byte) (t : State) : Touches [] (ByteOp.flags .asl) [] t (aslByte m t).2 :=
  (touches_freeFlag t .h).trans (touches_setNZVC _ _ _ _)

theorem touches_asrByte (m : Byte) (t : State) : Touches [] (ByteOp.flags .asr) [] t (asrByte m t).2 :=
  (touches_freeFlag t .h).trans (touches_setNZC _ _ _)

theorem touches_clrByte (m : Byte) (t : State) : Touches [] (ByteOp.flags .clr) [] t (clrByte m t).2 :=
  touches_setNZVC _ _ _ _

theorem touches_comByte (m : Byte) (t : State) : Touches [] (ByteOp.flags .com) [] t (comByte m t).2 :=
  touches_setNZVC _ _ _ _

theorem touches_decByte (m : Byte) (t : State) : Touches [] (ByteOp.flags .dec) [] t (decByte m t).2 :=
  touches_setNZV _ _ _

theorem touches_incByte (m : Byte) (t : State) : Touches [] (ByteOp.flags .inc) [] t (incByte m t).2 :=
  touches_setNZV _ _ _

theorem touches_lsrByte (m : Byte) (t : State) : Touches [] (ByteOp.flags .lsr) [] t (lsrByte m t).2 :=
  touches_setNZC _ _ _

theorem touches_negByte (m : Byte) (t : State) : Touches [] (ByteOp.flags .neg) [] t (negByte m t).2 :=
  (touches_freeFlag t .h).trans (touches_setNZVC _ _ _ _)

theorem touches_rolByte (m : Byte) (t : State) : Touches [] (ByteOp.flags .rol) [] t (rolByte m t).2 :=
  touches_setNZVC _ _ _ _

theorem touches_rorByte (m : Byte) (t : State) : Touches [] (ByteOp.flags .ror) [] t (rorByte m t).2 :=
  touches_setNZC _ _ _

theorem touches_modifyAcc (f : Byte → State → Byte × State) (flags : List Flag)
    (hf : ∀ m t, Touches [] flags [] t (f m t).2) (r : Acc) (t : State) :
    Touches [r.loc] flags [] t (modifyAcc f r t) :=
  ((hf _ t).trans (touches_setAcc _ r _)).mono (by simp) (by simp) (by simp)

theorem touches_modifyMem (f : Byte → State → Byte × State) (flags : List Flag)
    (hf : ∀ m t, Touches [] flags [] t (f m t).2) (m : Mem) (t : State) :
    Touches (memWrites m) flags [(memEA m t).1] t (modifyMem f m t) :=
  ((((touches_memEA m t).trans (touches_readByte _ _)).trans (hf _ _)).trans (touches_writeByte _ _ _)).mono (by simp)
    (by simp) (by simp)

theorem modifyAcc_wf (f : Byte → State → Byte × State) (hf : ∀ m t, (f m t).2.mem = t.mem) (r : Acc) (t : State)
    (h : Canonical t) : Canonical (modifyAcc f r t) := h.of_mem (by simp [modifyAcc, hf])

theorem modifyMem_wf (f : Byte → State → Byte × State) (hf : ∀ m t, (f m t).2.mem = t.mem) (m : Mem) (t : State)
    (h : Canonical t) : Canonical (modifyMem f m t) :=
  writeByte_wf _ _ _ (Canonical.of_mem (readByte_wf _ _ (memEA_wf m t h)) (hf _ _))

theorem touches_testAcc (r : Acc) (t : State) : Touches [] [.n, .z, .v] [] t (testAcc r t) := touches_setLogic t _

theorem touches_testMem (m : Mem) (t : State) : Touches (memWrites m) [.n, .z, .v] [] t (testMem m t) :=
  (((touches_memEA m t).trans (touches_readByte _ _)).trans (touches_setLogic _ _)).mono (by simp) (by simp) (by simp)

theorem testMem_wf (m : Mem) (t : State) (h : Canonical t) : Canonical (testMem m t) :=
  readByte_wf _ _ (memEA_wf m t h)

theorem touches_decimalAdjust (t : State) : Touches [.a] [.n, .z, .v, .c] [] t (decimalAdjust t) :=
  ((((touches_setA t _).trans (touches_setNZ _ _)).trans (touches_freeFlag _ .v)).trans (touches_setFlag _ .c _)).mono
    (by simp) (by simp) (by simp)

theorem touches_multiply (t : State) : Touches [.a, .b] [.z, .c] [] t (multiply t) :=
  ((touches_setD t _).trans (touches_setFlag _ .z _)).trans (touches_setFlag _ .c _)

/-! ## 16-bit instructions (43_16bit_pointer.md) -/

theorem touches_addWide (r : Wide) (o : Src16) (t : State) :
    Touches (r.locs ++ src16Writes o) [.n, .z, .v, .c] [] t (addWide r o t) :=
  (((touches_operand16 o t).trans (touches_setWide _ r _)).trans (touches_setNZVC _ _ _ _)).mono (by simp [or_comm])
    (by simp) (by simp)

theorem touches_subWide (r : Wide) (o : Src16) (t : State) :
    Touches (r.locs ++ src16Writes o) [.n, .z, .v, .c] [] t (subWide r o t) :=
  (((touches_operand16 o t).trans (touches_setWide _ r _)).trans (touches_setNZVC _ _ _ _)).mono (by simp [or_comm])
    (by simp) (by simp)

theorem touches_cmpWide (r : Wide) (o : Src16) (t : State) :
    Touches (src16Writes o) [.n, .z, .v, .c] [] t (cmpWide r o t) :=
  ((touches_operand16 o t).trans (touches_setNZVC _ _ _ _)).mono (by simp) (by simp) (by simp)

theorem touches_loadWide (r : Wide) (o : Src16) (t : State) :
    Touches (r.locs ++ src16Writes o) [.n, .z, .v] [] t (loadWide r o t) :=
  (((touches_operand16 o t).trans (touches_setWide _ r _)).trans (touches_setLogic _ _)).mono (by simp [or_comm])
    (by simp) (by simp)

theorem touches_storeWide (r : Wide) (m : Mem) (t : State) :
    Touches (memWrites m) [.n, .z, .v] [(memEA m t).1, (memEA m t).1 + 1] t (storeWide r m t) :=
  (((touches_memEA m t).trans (touches_writeWord _ _ _)).trans (touches_setLogic _ _)).mono (by simp) (by simp) (by simp)

theorem touches_loadAddress (p : Ptr) (i : Indexed) (t : State) :
    Touches (ptrLoc p :: indexedWrites i) [] [] t (loadAddress p i t) :=
  ((touches_indexedEA i t).trans (touches_setPtr _ p _)).mono (by simp [or_comm]) (by simp) (by simp)

theorem touches_loadAddressZ (p : Ptr) (i : Indexed) (t : State) :
    Touches (ptrLoc p :: indexedWrites i) [.z] [] t (loadAddressZ p i t) :=
  (((touches_indexedEA i t).trans (touches_setPtr _ p _)).trans (touches_setFlag _ .z _)).mono (by simp [or_comm])
    (by simp) (by simp)

theorem addWide_wf (r : Wide) (o : Src16) (t : State) (h : Canonical t) : Canonical (addWide r o t) :=
  (operand16_wf o t h).of_mem (by simp [addWide])

theorem subWide_wf (r : Wide) (o : Src16) (t : State) (h : Canonical t) : Canonical (subWide r o t) :=
  (operand16_wf o t h).of_mem (by simp [subWide])

theorem cmpWide_wf (r : Wide) (o : Src16) (t : State) (h : Canonical t) : Canonical (cmpWide r o t) :=
  (operand16_wf o t h).of_mem (by simp [cmpWide])

theorem loadWide_wf (r : Wide) (o : Src16) (t : State) (h : Canonical t) : Canonical (loadWide r o t) :=
  (operand16_wf o t h).of_mem (by simp [loadWide])

theorem storeWide_wf (r : Wide) (m : Mem) (t : State) (h : Canonical t) : Canonical (storeWide r m t) :=
  writeWord_wf _ _ _ (memEA_wf m t h)

theorem loadAddress_wf (p : Ptr) (i : Indexed) (t : State) (h : Canonical t) : Canonical (loadAddress p i t) :=
  (indexedEA_wf i t h).of_mem (by simp [loadAddress])

theorem loadAddressZ_wf (p : Ptr) (i : Indexed) (t : State) (h : Canonical t) : Canonical (loadAddressZ p i t) :=
  (indexedEA_wf i t h).of_mem (by simp [loadAddressZ])

/-! ## Transfers, branches and calls -/

theorem touches_writeReg (r : Reg) (v : Word) (t : State) : Touches (regLocs r) (regFlags r) [] t (writeReg r v t) := by
  cases r
  · exact touches_setD t v
  · exact touches_setX t v
  · exact touches_setY t v
  · exact touches_setU t v
  · exact (touches_setS t v).trans (touches_armNmi _)
  · exact touches_setPc t v
  · exact touches_setA t _
  · exact touches_setB t _
  · exact touches_setCc t _
  · exact touches_setDp t _

theorem branchShort_eq (k : Cond) (off : Byte) (t : State) :
    branchShort k off t = t.setPc (if takes k t then addOffset8 t.pc off else t.pc) := by
  unfold branchShort
  split <;> rfl

theorem branchLong_eq (k : Cond) (off : Word) (t : State) :
    branchLong k off t = t.setPc (if takes k t then t.pc + off else t.pc) := by
  unfold branchLong
  split <;> rfl

/-- A signed 8-bit offset added modulo 2^16, as a number. -/
theorem addOffset8_toNat (base : Word) (off : Byte) :
    ((addOffset8 base off).toNat : Int) = (base.toNat + off.toInt) % 65536 := by
  unfold addOffset8
  rw [BitVec.toNat_add]
  have h := BitVec.toInt_signExtend_of_le (x := off) (v := 16) (by decide)
  have h2 := BitVec.toInt_eq_toNat_bmod (off.signExtend 16)
  rw [h] at h2
  have h3 := (off.signExtend 16).isLt
  rw [Int.bmod_def] at h2
  split at h2 <;> omega

theorem callTo_eq (target : Word) (t : State) : callTo target t = (pushImage .s (wordBytes t.pc) t).setPc target := rfl

theorem touches_callTo (target : Word) (t : State) : Touches [.s, .pc] [] (below t.s 2) t (callTo target t) := by
  rw [callTo_eq]
  exact ((touches_pushImage .s (wordBytes t.pc) t).trans (touches_setPc _ target)).mono (by simp [ptrLoc]) (by simp)
    (by simp [wordBytes, State.ptr])

theorem callTo_wf (target : Word) (t : State) (h : Canonical t) : Canonical (callTo target t) := push16_wf _ _ _ h

end Sys2Proof.Machine
end

