-- ==== Sys2Proof/Laws/PerInstr.lean ====
section
/-! SUPPORT. What holds of each instruction as syntax, one lemma per constructor: its encoding has one to five bytes
(30_encoding.md R90, R112). -/

namespace Sys2Proof.Laws.EncodedLength

/-- The encoding of the instruction has at least one byte and at most the longest instruction's. -/
def Statement (i : Instr) : Prop := 1 ≤ i.length ∧ i.length ≤ maxLength

/-- An indexed form has one to three bytes. -/
theorem indexed (i : Indexed) : 1 ≤ (encodeIndexed i).length ∧ (encodeIndexed i).length ≤ 3 := by
  cases i <;> simp [encodeIndexed, wordBytes]

theorem src8 (o : Src8) (i d x e : List Byte) (hi : i.length = 1 ∧ d.length = 1 ∧ x.length = 1 ∧ e.length = 1) :
    1 ≤ (encodeSrc8 i d x e o).length ∧ (encodeSrc8 i d x e o).length ≤ 5 := by
  cases o with
  | idx f => have := indexed f; simp only [encodeSrc8, List.length_append]; omega
  | _ => simp only [encodeSrc8, wordBytes, List.length_append, List.length_cons, List.length_nil]; omega

theorem src16 (o : Src16) (i d x e : List Byte)
    (hi : 1 ≤ i.length ∧ i.length ≤ 2 ∧ d.length = i.length ∧ x.length = i.length ∧ e.length = i.length) :
    1 ≤ (encodeSrc16 i d x e o).length ∧ (encodeSrc16 i d x e o).length ≤ 5 := by
  cases o with
  | idx f => have := indexed f; simp only [encodeSrc16, List.length_append]; omega
  | _ => simp only [encodeSrc16, wordBytes, List.length_append, List.length_cons, List.length_nil]; omega

theorem memory (m : Mem) (d x e : List Byte)
    (hi : 1 ≤ d.length ∧ d.length ≤ 2 ∧ x.length = d.length ∧ e.length = d.length) :
    1 ≤ (encodeMem d x e m).length ∧ (encodeMem d x e m).length ≤ 5 := by
  cases m with
  | idx f => have := indexed f; simp only [encodeMem, List.length_append]; omega
  | _ => simp only [encodeMem, wordBytes, List.length_append, List.length_cons, List.length_nil]; omega

theorem adca (operand : Src8) : Statement (.adca operand) := src8 operand _ _ _ _ (by decide)
theorem adcb (operand : Src8) : Statement (.adcb operand) := src8 operand _ _ _ _ (by decide)
theorem adda (operand : Src8) : Statement (.adda operand) := src8 operand _ _ _ _ (by decide)
theorem addb (operand : Src8) : Statement (.addb operand) := src8 operand _ _ _ _ (by decide)
theorem anda (operand : Src8) : Statement (.anda operand) := src8 operand _ _ _ _ (by decide)
theorem andb (operand : Src8) : Statement (.andb operand) := src8 operand _ _ _ _ (by decide)
theorem bita (operand : Src8) : Statement (.bita operand) := src8 operand _ _ _ _ (by decide)
theorem bitb (operand : Src8) : Statement (.bitb operand) := src8 operand _ _ _ _ (by decide)
theorem cmpa (operand : Src8) : Statement (.cmpa operand) := src8 operand _ _ _ _ (by decide)
theorem cmpb (operand : Src8) : Statement (.cmpb operand) := src8 operand _ _ _ _ (by decide)
theorem eora (operand : Src8) : Statement (.eora operand) := src8 operand _ _ _ _ (by decide)
theorem eorb (operand : Src8) : Statement (.eorb operand) := src8 operand _ _ _ _ (by decide)
theorem lda (operand : Src8) : Statement (.lda operand) := src8 operand _ _ _ _ (by decide)
theorem ldb (operand : Src8) : Statement (.ldb operand) := src8 operand _ _ _ _ (by decide)
theorem ora (operand : Src8) : Statement (.ora operand) := src8 operand _ _ _ _ (by decide)
theorem orb (operand : Src8) : Statement (.orb operand) := src8 operand _ _ _ _ (by decide)
theorem sbca (operand : Src8) : Statement (.sbca operand) := src8 operand _ _ _ _ (by decide)
theorem sbcb (operand : Src8) : Statement (.sbcb operand) := src8 operand _ _ _ _ (by decide)
theorem sta (operand : Mem) : Statement (.sta operand) := memory operand _ _ _ (by decide)
theorem stb (operand : Mem) : Statement (.stb operand) := memory operand _ _ _ (by decide)
theorem suba (operand : Src8) : Statement (.suba operand) := src8 operand _ _ _ _ (by decide)
theorem subb (operand : Src8) : Statement (.subb operand) := src8 operand _ _ _ _ (by decide)
theorem asla : Statement .asla := ⟨by decide, by decide⟩
theorem aslb : Statement .aslb := ⟨by decide, by decide⟩
theorem asl (operand : Mem) : Statement (.asl operand) := memory operand _ _ _ (by decide)
theorem asra : Statement .asra := ⟨by decide, by decide⟩
theorem asrb : Statement .asrb := ⟨by decide, by decide⟩
theorem asr (operand : Mem) : Statement (.asr operand) := memory operand _ _ _ (by decide)
theorem clra : Statement .clra := ⟨by decide, by decide⟩
theorem clrb : Statement .clrb := ⟨by decide, by decide⟩
theorem clr (operand : Mem) : Statement (.clr operand) := memory operand _ _ _ (by decide)
theorem coma : Statement .coma := ⟨by decide, by decide⟩
theorem comb : Statement .comb := ⟨by decide, by decide⟩
theorem com (operand : Mem) : Statement (.com operand) := memory operand _ _ _ (by decide)
theorem deca : Statement .deca := ⟨by decide, by decide⟩
theorem decb : Statement .decb := ⟨by decide, by decide⟩
theorem dec (operand : Mem) : Statement (.dec operand) := memory operand _ _ _ (by decide)
theorem inca : Statement .inca := ⟨by decide, by decide⟩
theorem incb : Statement .incb := ⟨by decide, by decide⟩
theorem inc (operand : Mem) : Statement (.inc operand) := memory operand _ _ _ (by decide)
theorem lsla : Statement .lsla := ⟨by decide, by decide⟩
theorem lslb : Statement .lslb := ⟨by decide, by decide⟩
theorem lsl (operand : Mem) : Statement (.lsl operand) := memory operand _ _ _ (by decide)
theorem lsra : Statement .lsra := ⟨by decide, by decide⟩
theorem lsrb : Statement .lsrb := ⟨by decide, by decide⟩
theorem lsr (operand : Mem) : Statement (.lsr operand) := memory operand _ _ _ (by decide)
theorem nega : Statement .nega := ⟨by decide, by decide⟩
theorem negb : Statement .negb := ⟨by decide, by decide⟩
theorem neg (operand : Mem) : Statement (.neg operand) := memory operand _ _ _ (by decide)
theorem rola : Statement .rola := ⟨by decide, by decide⟩
theorem rolb : Statement .rolb := ⟨by decide, by decide⟩
theorem rol (operand : Mem) : Statement (.rol operand) := memory operand _ _ _ (by decide)
theorem rora : Statement .rora := ⟨by decide, by decide⟩
theorem rorb : Statement .rorb := ⟨by decide, by decide⟩
theorem ror (operand : Mem) : Statement (.ror operand) := memory operand _ _ _ (by decide)
theorem tsta : Statement .tsta := ⟨by decide, by decide⟩
theorem tstb : Statement .tstb := ⟨by decide, by decide⟩
theorem tst (operand : Mem) : Statement (.tst operand) := memory operand _ _ _ (by decide)
theorem daa : Statement .daa := ⟨by decide, by decide⟩
theorem mul : Statement .mul := ⟨by decide, by decide⟩
theorem addd (operand : Src16) : Statement (.addd operand) := src16 operand _ _ _ _ (by decide)
theorem subd (operand : Src16) : Statement (.subd operand) := src16 operand _ _ _ _ (by decide)
theorem cmpd (operand : Src16) : Statement (.cmpd operand) := src16 operand _ _ _ _ (by decide)
theorem cmpx (operand : Src16) : Statement (.cmpx operand) := src16 operand _ _ _ _ (by decide)
theorem cmpy (operand : Src16) : Statement (.cmpy operand) := src16 operand _ _ _ _ (by decide)
theorem cmpu (operand : Src16) : Statement (.cmpu operand) := src16 operand _ _ _ _ (by decide)
theorem cmps (operand : Src16) : Statement (.cmps operand) := src16 operand _ _ _ _ (by decide)
theorem ldd (operand : Src16) : Statement (.ldd operand) := src16 operand _ _ _ _ (by decide)
theorem ldx (operand : Src16) : Statement (.ldx operand) := src16 operand _ _ _ _ (by decide)
theorem ldy (operand : Src16) : Statement (.ldy operand) := src16 operand _ _ _ _ (by decide)
theorem ldu (operand : Src16) : Statement (.ldu operand) := src16 operand _ _ _ _ (by decide)
theorem lds (operand : Src16) : Statement (.lds operand) := src16 operand _ _ _ _ (by decide)
theorem std (operand : Mem) : Statement (.std operand) := memory operand _ _ _ (by decide)
theorem stx (operand : Mem) : Statement (.stx operand) := memory operand _ _ _ (by decide)
theorem sty (operand : Mem) : Statement (.sty operand) := memory operand _ _ _ (by decide)
theorem stu (operand : Mem) : Statement (.stu operand) := memory operand _ _ _ (by decide)
theorem sts (operand : Mem) : Statement (.sts operand) := memory operand _ _ _ (by decide)
theorem leax (operand : Indexed) : Statement (.leax operand) := by
  have := indexed operand
  simp only [Statement, Instr.length, encode, maxLength, List.length_append, List.length_cons, List.length_nil]
  omega
theorem leay (operand : Indexed) : Statement (.leay operand) := by
  have := indexed operand
  simp only [Statement, Instr.length, encode, maxLength, List.length_append, List.length_cons, List.length_nil]
  omega
theorem leas (operand : Indexed) : Statement (.leas operand) := by
  have := indexed operand
  simp only [Statement, Instr.length, encode, maxLength, List.length_append, List.length_cons, List.length_nil]
  omega
theorem leau (operand : Indexed) : Statement (.leau operand) := by
  have := indexed operand
  simp only [Statement, Instr.length, encode, maxLength, List.length_append, List.length_cons, List.length_nil]
  omega
theorem abx : Statement .abx := ⟨by decide, by decide⟩
theorem sex : Statement .sex := ⟨by decide, by decide⟩
theorem pshs (regs : Byte) : Statement (.pshs regs) := ⟨Nat.le_of_ble_eq_true rfl, Nat.le_of_ble_eq_true rfl⟩
theorem pshu (regs : Byte) : Statement (.pshu regs) := ⟨Nat.le_of_ble_eq_true rfl, Nat.le_of_ble_eq_true rfl⟩
theorem puls (regs : Byte) : Statement (.puls regs) := ⟨Nat.le_of_ble_eq_true rfl, Nat.le_of_ble_eq_true rfl⟩
theorem pulu (regs : Byte) : Statement (.pulu regs) := ⟨Nat.le_of_ble_eq_true rfl, Nat.le_of_ble_eq_true rfl⟩
theorem tfr (source : Reg) (dest : Reg) : Statement (.tfr source dest) := ⟨Nat.le_of_ble_eq_true rfl, Nat.le_of_ble_eq_true rfl⟩
theorem exg (source : Reg) (dest : Reg) : Statement (.exg source dest) := ⟨Nat.le_of_ble_eq_true rfl, Nat.le_of_ble_eq_true rfl⟩
theorem bra (off : Byte) : Statement (.bra off) := ⟨Nat.le_of_ble_eq_true rfl, Nat.le_of_ble_eq_true rfl⟩
theorem brn (off : Byte) : Statement (.brn off) := ⟨Nat.le_of_ble_eq_true rfl, Nat.le_of_ble_eq_true rfl⟩
theorem bhi (off : Byte) : Statement (.bhi off) := ⟨Nat.le_of_ble_eq_true rfl, Nat.le_of_ble_eq_true rfl⟩
theorem bls (off : Byte) : Statement (.bls off) := ⟨Nat.le_of_ble_eq_true rfl, Nat.le_of_ble_eq_true rfl⟩
theorem bcc (off : Byte) : Statement (.bcc off) := ⟨Nat.le_of_ble_eq_true rfl, Nat.le_of_ble_eq_true rfl⟩
theorem bhs (off : Byte) : Statement (.bhs off) := ⟨Nat.le_of_ble_eq_true rfl, Nat.le_of_ble_eq_true rfl⟩
theorem bcs (off : Byte) : Statement (.bcs off) := ⟨Nat.le_of_ble_eq_true rfl, Nat.le_of_ble_eq_true rfl⟩
theorem blo (off : Byte) : Statement (.blo off) := ⟨Nat.le_of_ble_eq_true rfl, Nat.le_of_ble_eq_true rfl⟩
theorem bne (off : Byte) : Statement (.bne off) := ⟨Nat.le_of_ble_eq_true rfl, Nat.le_of_ble_eq_true rfl⟩
theorem beq (off : Byte) : Statement (.beq off) := ⟨Nat.le_of_ble_eq_true rfl, Nat.le_of_ble_eq_true rfl⟩
theorem bvc (off : Byte) : Statement (.bvc off) := ⟨Nat.le_of_ble_eq_true rfl, Nat.le_of_ble_eq_true rfl⟩
theorem bvs (off : Byte) : Statement (.bvs off) := ⟨Nat.le_of_ble_eq_true rfl, Nat.le_of_ble_eq_true rfl⟩
theorem bpl (off : Byte) : Statement (.bpl off) := ⟨Nat.le_of_ble_eq_true rfl, Nat.le_of_ble_eq_true rfl⟩
theorem bmi (off : Byte) : Statement (.bmi off) := ⟨Nat.le_of_ble_eq_true rfl, Nat.le_of_ble_eq_true rfl⟩
theorem bge (off : Byte) : Statement (.bge off) := ⟨Nat.le_of_ble_eq_true rfl, Nat.le_of_ble_eq_true rfl⟩
theorem blt (off : Byte) : Statement (.blt off) := ⟨Nat.le_of_ble_eq_true rfl, Nat.le_of_ble_eq_true rfl⟩
theorem bgt (off : Byte) : Statement (.bgt off) := ⟨Nat.le_of_ble_eq_true rfl, Nat.le_of_ble_eq_true rfl⟩
theorem ble (off : Byte) : Statement (.ble off) := ⟨Nat.le_of_ble_eq_true rfl, Nat.le_of_ble_eq_true rfl⟩
theorem lbra (off : Word) : Statement (.lbra off) := ⟨Nat.le_of_ble_eq_true rfl, Nat.le_of_ble_eq_true rfl⟩
theorem lbrn (off : Word) : Statement (.lbrn off) := ⟨Nat.le_of_ble_eq_true rfl, Nat.le_of_ble_eq_true rfl⟩
theorem lbhi (off : Word) : Statement (.lbhi off) := ⟨Nat.le_of_ble_eq_true rfl, Nat.le_of_ble_eq_true rfl⟩
theorem lbls (off : Word) : Statement (.lbls off) := ⟨Nat.le_of_ble_eq_true rfl, Nat.le_of_ble_eq_true rfl⟩
theorem lbcc (off : Word) : Statement (.lbcc off) := ⟨Nat.le_of_ble_eq_true rfl, Nat.le_of_ble_eq_true rfl⟩
theorem lbhs (off : Word) : Statement (.lbhs off) := ⟨Nat.le_of_ble_eq_true rfl, Nat.le_of_ble_eq_true rfl⟩
theorem lbcs (off : Word) : Statement (.lbcs off) := ⟨Nat.le_of_ble_eq_true rfl, Nat.le_of_ble_eq_true rfl⟩
theorem lblo (off : Word) : Statement (.lblo off) := ⟨Nat.le_of_ble_eq_true rfl, Nat.le_of_ble_eq_true rfl⟩
theorem lbne (off : Word) : Statement (.lbne off) := ⟨Nat.le_of_ble_eq_true rfl, Nat.le_of_ble_eq_true rfl⟩
theorem lbeq (off : Word) : Statement (.lbeq off) := ⟨Nat.le_of_ble_eq_true rfl, Nat.le_of_ble_eq_true rfl⟩
theorem lbvc (off : Word) : Statement (.lbvc off) := ⟨Nat.le_of_ble_eq_true rfl, Nat.le_of_ble_eq_true rfl⟩
theorem lbvs (off : Word) : Statement (.lbvs off) := ⟨Nat.le_of_ble_eq_true rfl, Nat.le_of_ble_eq_true rfl⟩
theorem lbpl (off : Word) : Statement (.lbpl off) := ⟨Nat.le_of_ble_eq_true rfl, Nat.le_of_ble_eq_true rfl⟩
theorem lbmi (off : Word) : Statement (.lbmi off) := ⟨Nat.le_of_ble_eq_true rfl, Nat.le_of_ble_eq_true rfl⟩
theorem lbge (off : Word) : Statement (.lbge off) := ⟨Nat.le_of_ble_eq_true rfl, Nat.le_of_ble_eq_true rfl⟩
theorem lblt (off : Word) : Statement (.lblt off) := ⟨Nat.le_of_ble_eq_true rfl, Nat.le_of_ble_eq_true rfl⟩
theorem lbgt (off : Word) : Statement (.lbgt off) := ⟨Nat.le_of_ble_eq_true rfl, Nat.le_of_ble_eq_true rfl⟩
theorem lble (off : Word) : Statement (.lble off) := ⟨Nat.le_of_ble_eq_true rfl, Nat.le_of_ble_eq_true rfl⟩
theorem bsr (off : Byte) : Statement (.bsr off) := ⟨Nat.le_of_ble_eq_true rfl, Nat.le_of_ble_eq_true rfl⟩
theorem lbsr (off : Word) : Statement (.lbsr off) := ⟨Nat.le_of_ble_eq_true rfl, Nat.le_of_ble_eq_true rfl⟩
theorem andcc (imm : Byte) : Statement (.andcc imm) := ⟨Nat.le_of_ble_eq_true rfl, Nat.le_of_ble_eq_true rfl⟩
theorem orcc (imm : Byte) : Statement (.orcc imm) := ⟨Nat.le_of_ble_eq_true rfl, Nat.le_of_ble_eq_true rfl⟩
theorem cwai (imm : Byte) : Statement (.cwai imm) := ⟨Nat.le_of_ble_eq_true rfl, Nat.le_of_ble_eq_true rfl⟩
theorem nop : Statement .nop := ⟨by decide, by decide⟩
theorem jmp (operand : Mem) : Statement (.jmp operand) := memory operand _ _ _ (by decide)
theorem jsr (operand : Mem) : Statement (.jsr operand) := memory operand _ _ _ (by decide)
theorem rti : Statement .rti := ⟨by decide, by decide⟩
theorem rts : Statement .rts := ⟨by decide, by decide⟩
theorem swi : Statement .swi := ⟨by decide, by decide⟩
theorem swi2 : Statement .swi2 := ⟨by decide, by decide⟩
theorem swi3 : Statement .swi3 := ⟨by decide, by decide⟩
theorem sync : Statement .sync := ⟨by decide, by decide⟩

end Sys2Proof.Laws.EncodedLength
end

