-- ==== Sys2Proof/Laws/Pulls.lean ====
section
/-! SUPPORT. A run of pulls from plain memory: after `n` bytes the pointer is `n` higher and memory is as before, so that
the next pull reads the byte or the word that follows. -/

namespace Sys2Proof.Machine

/-- Between `t` and `t'` lie pulls of `n` bytes through pointer `p`; registers may differ. -/
structure PulledTo (p : Ptr) (t t' : State) (n : Nat) : Prop where
  ptr : t'.ptr p = t.ptr p + BitVec.ofNat 16 n
  mem : t'.mem = t.mem
  agent : t'.agent = t.agent
  platform : t'.platform = t.platform

theorem PulledTo.start (p : Ptr) (t : State) : PulledTo p t t 0 := ⟨by simp, rfl, rfl, rfl⟩

theorem PulledTo.peek {p : Ptr} {t t' : State} {n : Nat} (h : PulledTo p t t' n) (addr : Word) :
    t'.peek addr = t.peek addr := State.peek_of_mem h.mem addr

theorem PulledTo.plain {p : Ptr} {t t' : State} {n : Nat} (h : PulledTo p t t' n) (addr : Word) (k : Plain t addr) :
    Plain t' addr := by
  unfold Plain State.kindAt at *
  rw [h.platform]
  exact k

/-- What a register write must keep for a run of pulls to go on. -/
def KeepsPull {v : Type} (p : Ptr) (put : State → v → State) : Prop :=
  ∀ t x, (put t x).ptr p = t.ptr p ∧ (put t x).mem = t.mem ∧ (put t x).agent = t.agent ∧ (put t x).platform = t.platform

/-- The next byte of a run of pulls. -/
theorem PulledTo.byte {p : Ptr} {t t' : State} {n : Nat} (h : PulledTo p t t' n) (q : Quiet t)
    (k : Plain t (t.ptr p + BitVec.ofNat 16 n)) (put : State → Byte → State) (hput : KeepsPull p put) :
    pullByteTo p put t' = put (recordCycle (.read (t'.ptr p) (t.peek (t.ptr p + BitVec.ofNat 16 n)))
      (t'.setPtr p (t'.ptr p + 1))) (t.peek (t.ptr p + BitVec.ofNat 16 n)) ∧
    PulledTo p t (pullByteTo p put t') (n + 1) := by
  have q' : t'.agent = [] := h.agent.trans q
  have hk := h.plain _ k
  rw [← h.ptr] at hk
  have e : pullByteTo p put t' = put (recordCycle (.read (t'.ptr p) (t.peek (t.ptr p + BitVec.ofNat 16 n)))
      (t'.setPtr p (t'.ptr p + 1))) (t.peek (t.ptr p + BitVec.ofNat 16 n)) := by
    unfold pullByteTo
    rw [pull8_plain p t' q' hk, h.peek, h.ptr]
  refine ⟨e, ?_⟩
  rw [e]
  obtain ⟨a, b, c, d⟩ := hput (recordCycle (.read (t'.ptr p) (t.peek (t.ptr p + BitVec.ofNat 16 n)))
    (t'.setPtr p (t'.ptr p + 1))) (t.peek (t.ptr p + BitVec.ofNat 16 n))
  refine ⟨?_, ?_, ?_, ?_⟩
  · rw [a]
    simp only [recordCycle_ptr, State.ptr_setPtr, if_true, h.ptr]
    apply BitVec.eq_of_toNat_eq
    simp [BitVec.toNat_add]
    omega
  · rw [b]; simp [h.mem]
  · rw [c]; simp [h.agent]
  · rw [d]; simp [h.platform]

/-- The next word of a run of pulls. -/
theorem PulledTo.word {p : Ptr} {t t' : State} {n : Nat} (h : PulledTo p t t' n) (q : Quiet t)
    (k : Plain t (t.ptr p + BitVec.ofNat 16 n)) (k' : Plain t (t.ptr p + BitVec.ofNat 16 n + 1))
    (put : State → Word → State) (hput : KeepsPull p put) :
    pullWordTo p put t' = put (recordWord (t'.ptr p) (t.peekWord (t.ptr p + BitVec.ofNat 16 n))
      (t'.setPtr p (t'.ptr p + 2))) (t.peekWord (t.ptr p + BitVec.ofNat 16 n)) ∧
    PulledTo p t (pullWordTo p put t') (n + 2) := by
  have q' : t'.agent = [] := h.agent.trans q
  have hk := h.plain _ k
  have hk' := h.plain _ k'
  rw [← h.ptr] at hk hk'
  have e : pullWordTo p put t' = put (recordWord (t'.ptr p) (t.peekWord (t.ptr p + BitVec.ofNat 16 n))
      (t'.setPtr p (t'.ptr p + 2))) (t.peekWord (t.ptr p + BitVec.ofNat 16 n)) := by
    unfold pullWordTo
    rw [pull16_plain p t' q' hk hk', h.ptr]
    simp [State.peekWord, h.peek]
  refine ⟨e, ?_⟩
  rw [e]
  obtain ⟨a, b, c, d⟩ := hput (recordWord (t'.ptr p) (t.peekWord (t.ptr p + BitVec.ofNat 16 n))
    (t'.setPtr p (t'.ptr p + 2))) (t.peekWord (t.ptr p + BitVec.ofNat 16 n))
  refine ⟨?_, ?_, ?_, ?_⟩
  · rw [a]
    simp only [recordWord_ptr, State.ptr_setPtr, if_true, h.ptr]
    apply BitVec.eq_of_toNat_eq
    simp [BitVec.toNat_add]
    omega
  · rw [b]; simp [h.mem]
  · rw [c]; simp [h.agent]
  · rw [d]; simp [h.platform]

/-- The bytes of a word that plain memory holds. -/
theorem State.peekBytes_two (t : State) (addr : Word) : t.peekBytes addr 2 = wordBytes (t.peekWord addr) := by
  simp [State.peekBytes_succ, State.peekBytes_zero, wordBytes, State.peekWord]

end Sys2Proof.Machine
end

