-- ==== Sys2Proof/Tests/Slice0.lean ====
section
/-! SUPPORT. Tests. The decode words are written out from the spec's opcode maps and postbyte table (30_encoding.md R97,
R100, R103 to R106); the expected results of the steps are the spec's own vectors (95_test_vectors.md,
96_test_vectors_derived.md and the examples of the instruction rules), none of them the model's answer. After them stand
the witnesses of the statements' hypotheses. -/

namespace Sys2Proof.Machine

/-! ## Helpers -/

/-- Bytes put in memory from an address up. -/
def cells (addr : Nat) : List Byte → Memory → Memory
  | [], m => m
  | v :: rest, m => cells (addr + 1) rest (m.write addr v)

/-- A state about to execute these bytes. -/
def start (pc : Word) (bytes : List Byte) (t : State) : State := (t.setPc pc).setMem (cells pc.toNat bytes t.mem)

/-- The next state of an outcome; the reset state where there is none. -/
def after (r : Result) : State :=
  match r with
  | .next t => t
  | .fault _ => State.reset
  | .refused _ => State.reset

/-- The state after one step. -/
def ran (t : State) : State := after (step t)

/-! ## Well-formedness: the one check, and ill-formed terms it refuses (30_encoding.md R110) -/

theorem test_tfr_like_sizes : (Instr.tfr .a .dp).wellFormed = true ∧ (Instr.exg .d .pc).wellFormed = true := by decide
theorem test_tfr_mixed_sizes_refused : (Instr.tfr .a .x).wellFormed = false ∧ (Instr.tfr .pc .cc).wellFormed = false := by
  decide
theorem test_exg_mixed_sizes_refused : (Instr.exg .d .b).wellFormed = false ∧ (Instr.exg .dp .s).wellFormed = false := by
  decide

/-! ## Undefined bytes are refused by name (R107 to R110) -/

theorem test_illegal_opcodes :
    decode [0x01] = .illegal (.illegalOpcode [0x01]) ∧ decode [0xCF] = .illegal (.illegalOpcode [0xCF]) ∧
    decode [0x10, 0x10] = .illegal (.illegalOpcode [0x10, 0x10]) ∧
    decode [0x10, 0x86] = .illegal (.illegalOpcode [0x10, 0x86]) ∧
    decode [0x11, 0xFF] = .illegal (.illegalOpcode [0x11, 0xFF]) := by decide
theorem test_illegal_postbytes :
    decode [0xA6, 0x87] = .illegal (.illegalPostbyte 0x87) ∧ decode [0xA6, 0x90] = .illegal (.illegalPostbyte 0x90) ∧
    decode [0x30, 0xFF] = .illegal (.illegalPostbyte 0xFF) ∧ decode [0x10, 0xAE, 0xD2] = .illegal (.illegalPostbyte 0xD2) := by
  decide
theorem test_illegal_register_codes :
    decode [0x1F, 0x60] = .illegal (.illegalRegisterCode 0x60) ∧ decode [0x1F, 0x0C] = .illegal (.illegalRegisterCode 0x0C) ∧
    decode [0x1E, 0x01] = .done (.exg .d .x) [] ∧ decode [0x1E, 0x08] = .illegal (.illegalRegisterCode 0x08) := by decide
theorem test_incomplete_bytes : decode [] = .more ∧ decode [0x10] = .more ∧ decode [0xB6, 0x12] = .more := by decide

/-! ## Decoding: every instruction, each of its formats, from the opcode maps -/

theorem test_decode_neg :
    decode [0x00, 0x4B] = .done (.neg (.dir 0x4B)) [] ∧
    decode [0x60, 0x84] = .done (.neg (.idx (.noOff .x false))) [] ∧
    decode [0x70, 0x43, 0xA0] = .done (.neg (.ext 0x43A0)) [] := by decide
theorem test_decode_com :
    decode [0x03, 0x4B] = .done (.com (.dir 0x4B)) [] ∧
    decode [0x63, 0x1F] = .done (.com (.idx (.off5 .x 0x1F))) [] ∧
    decode [0x73, 0x43, 0xA0] = .done (.com (.ext 0x43A0)) [] := by decide
theorem test_decode_lsr :
    decode [0x04, 0x4B] = .done (.lsr (.dir 0x4B)) [] ∧
    decode [0x64, 0xA0] = .done (.lsr (.idx (.inc1 .y))) [] ∧
    decode [0x74, 0x43, 0xA0] = .done (.lsr (.ext 0x43A0)) [] := by decide
theorem test_decode_ror :
    decode [0x06, 0x4B] = .done (.ror (.dir 0x4B)) [] ∧
    decode [0x66, 0xC1] = .done (.ror (.idx (.inc2 .u false))) [] ∧
    decode [0x76, 0x43, 0xA0] = .done (.ror (.ext 0x43A0)) [] := by decide
theorem test_decode_asr :
    decode [0x07, 0x4B] = .done (.asr (.dir 0x4B)) [] ∧
    decode [0x67, 0xE2] = .done (.asr (.idx (.dec1 .s))) [] ∧
    decode [0x77, 0x43, 0xA0] = .done (.asr (.ext 0x43A0)) [] := by decide
theorem test_decode_asl :
    decode [0x08, 0x4B] = .done (.asl (.dir 0x4B)) [] ∧
    decode [0x68, 0x83] = .done (.asl (.idx (.dec2 .x false))) [] ∧
    decode [0x78, 0x43, 0xA0] = .done (.asl (.ext 0x43A0)) [] := by decide
theorem test_decode_lsl :
    decode [0x08, 0x4B] = .done (.asl (.dir 0x4B)) [] ∧
    decode [0x68, 0xB3] = .done (.asl (.idx (.dec2 .y true))) [] ∧
    decode [0x78, 0x43, 0xA0] = .done (.asl (.ext 0x43A0)) [] := by decide
theorem test_decode_rol :
    decode [0x09, 0x4B] = .done (.rol (.dir 0x4B)) [] ∧
    decode [0x69, 0xD1] = .done (.rol (.idx (.inc2 .u true))) [] ∧
    decode [0x79, 0x43, 0xA0] = .done (.rol (.ext 0x43A0)) [] := by decide
theorem test_decode_dec :
    decode [0x0A, 0x4B] = .done (.dec (.dir 0x4B)) [] ∧
    decode [0x6A, 0xA5] = .done (.dec (.idx (.accB .y false))) [] ∧
    decode [0x7A, 0x43, 0xA0] = .done (.dec (.ext 0x43A0)) [] := by decide
theorem test_decode_inc :
    decode [0x0C, 0x4B] = .done (.inc (.dir 0x4B)) [] ∧
    decode [0x6C, 0xF5] = .done (.inc (.idx (.accB .s true))) [] ∧
    decode [0x7C, 0x43, 0xA0] = .done (.inc (.ext 0x43A0)) [] := by decide
theorem test_decode_tst :
    decode [0x0D, 0x4B] = .done (.tst (.dir 0x4B)) [] ∧
    decode [0x6D, 0xC6] = .done (.tst (.idx (.accA .u false))) [] ∧
    decode [0x7D, 0x43, 0xA0] = .done (.tst (.ext 0x43A0)) [] := by decide
theorem test_decode_jmp :
    decode [0x0E, 0x4B] = .done (.jmp (.dir 0x4B)) [] ∧
    decode [0x6E, 0x96] = .done (.jmp (.idx (.accA .x true))) [] ∧
    decode [0x7E, 0x43, 0xA0] = .done (.jmp (.ext 0x43A0)) [] := by decide
theorem test_decode_clr :
    decode [0x0F, 0x4B] = .done (.clr (.dir 0x4B)) [] ∧
    decode [0x6F, 0xEB] = .done (.clr (.idx (.accD .s false))) [] ∧
    decode [0x7F, 0x43, 0xA0] = .done (.clr (.ext 0x43A0)) [] := by decide
theorem test_decode_nop :
    decode [0x12] = .done (.nop) [] := by decide
theorem test_decode_sync :
    decode [0x13] = .done (.sync) [] := by decide
theorem test_decode_lbra :
    decode [0x16, 0x01, 0x80] = .done (.lbra 0x0180) [] := by decide
theorem test_decode_lbsr :
    decode [0x17, 0x01, 0x80] = .done (.lbsr 0x0180) [] := by decide
theorem test_decode_daa :
    decode [0x19] = .done (.daa) [] := by decide
theorem test_decode_orcc :
    decode [0x1A, 0x20] = .done (.orcc 0x20) [] := by decide
theorem test_decode_andcc :
    decode [0x1C, 0x20] = .done (.andcc 0x20) [] := by decide
theorem test_decode_sex :
    decode [0x1D] = .done (.sex) [] := by decide
theorem test_decode_exg :
    decode [0x1E, 0x8B] = .done (.exg .a .dp) [] ∧
    decode [0x1E, 0x05] = .done (.exg .d .pc) [] := by decide
theorem test_decode_tfr :
    decode [0x1F, 0x8B] = .done (.tfr .a .dp) [] ∧
    decode [0x1F, 0x05] = .done (.tfr .d .pc) [] := by decide
theorem test_decode_bra :
    decode [0x20, 0xFE] = .done (.bra 0xFE) [] := by decide
theorem test_decode_brn :
    decode [0x21, 0xFE] = .done (.brn 0xFE) [] := by decide
theorem test_decode_bhi :
    decode [0x22, 0xFE] = .done (.bhi 0xFE) [] := by decide
theorem test_decode_bls :
    decode [0x23, 0xFE] = .done (.bls 0xFE) [] := by decide
theorem test_decode_bcc :
    decode [0x24, 0xFE] = .done (.bcc 0xFE) [] := by decide
theorem test_decode_bhs :
    decode [0x24, 0xFE] = .done (.bcc 0xFE) [] := by decide
theorem test_decode_bcs :
    decode [0x25, 0xFE] = .done (.bcs 0xFE) [] := by decide
theorem test_decode_blo :
    decode [0x25, 0xFE] = .done (.bcs 0xFE) [] := by decide
theorem test_decode_bne :
    decode [0x26, 0xFE] = .done (.bne 0xFE) [] := by decide
theorem test_decode_beq :
    decode [0x27, 0xFE] = .done (.beq 0xFE) [] := by decide
theorem test_decode_bvc :
    decode [0x28, 0xFE] = .done (.bvc 0xFE) [] := by decide
theorem test_decode_bvs :
    decode [0x29, 0xFE] = .done (.bvs 0xFE) [] := by decide
theorem test_decode_bpl :
    decode [0x2A, 0xFE] = .done (.bpl 0xFE) [] := by decide
theorem test_decode_bmi :
    decode [0x2B, 0xFE] = .done (.bmi 0xFE) [] := by decide
theorem test_decode_bge :
    decode [0x2C, 0xFE] = .done (.bge 0xFE) [] := by decide
theorem test_decode_blt :
    decode [0x2D, 0xFE] = .done (.blt 0xFE) [] := by decide
theorem test_decode_bgt :
    decode [0x2E, 0xFE] = .done (.bgt 0xFE) [] := by decide
theorem test_decode_ble :
    decode [0x2F, 0xFE] = .done (.ble 0xFE) [] := by decide
theorem test_decode_leax :
    decode [0x30, 0xBB] = .done (.leax (.accD .y true)) [] := by decide
theorem test_decode_leay :
    decode [0x31, 0x88, 0x80] = .done (.leay (.off8 .x 0x80 false)) [] := by decide
theorem test_decode_leas :
    decode [0x32, 0xB8, 0x7F] = .done (.leas (.off8 .y 0x7F true)) [] := by decide
theorem test_decode_leau :
    decode [0x33, 0xC9, 0x12, 0x34] = .done (.leau (.off16 .u 0x1234 false)) [] := by decide
theorem test_decode_pshs :
    decode [0x34, 0x70] = .done (.pshs 0x70) [] := by decide
theorem test_decode_puls :
    decode [0x35, 0x70] = .done (.puls 0x70) [] := by decide
theorem test_decode_pshu :
    decode [0x36, 0x70] = .done (.pshu 0x70) [] := by decide
theorem test_decode_pulu :
    decode [0x37, 0x70] = .done (.pulu 0x70) [] := by decide
theorem test_decode_rts :
    decode [0x39] = .done (.rts) [] := by decide
theorem test_decode_abx :
    decode [0x3A] = .done (.abx) [] := by decide
theorem test_decode_rti :
    decode [0x3B] = .done (.rti) [] := by decide
theorem test_decode_cwai :
    decode [0x3C, 0x20] = .done (.cwai 0x20) [] := by decide
theorem test_decode_mul :
    decode [0x3D] = .done (.mul) [] := by decide
theorem test_decode_swi :
    decode [0x3F] = .done (.swi) [] := by decide
theorem test_decode_nega :
    decode [0x40] = .done (.nega) [] := by decide
theorem test_decode_coma :
    decode [0x43] = .done (.coma) [] := by decide
theorem test_decode_lsra :
    decode [0x44] = .done (.lsra) [] := by decide
theorem test_decode_rora :
    decode [0x46] = .done (.rora) [] := by decide
theorem test_decode_asra :
    decode [0x47] = .done (.asra) [] := by decide
theorem test_decode_asla :
    decode [0x48] = .done (.asla) [] := by decide
theorem test_decode_lsla :
    decode [0x48] = .done (.asla) [] := by decide
theorem test_decode_rola :
    decode [0x49] = .done (.rola) [] := by decide
theorem test_decode_deca :
    decode [0x4A] = .done (.deca) [] := by decide
theorem test_decode_inca :
    decode [0x4C] = .done (.inca) [] := by decide
theorem test_decode_tsta :
    decode [0x4D] = .done (.tsta) [] := by decide
theorem test_decode_clra :
    decode [0x4F] = .done (.clra) [] := by decide
theorem test_decode_negb :
    decode [0x50] = .done (.negb) [] := by decide
theorem test_decode_comb :
    decode [0x53] = .done (.comb) [] := by decide
theorem test_decode_lsrb :
    decode [0x54] = .done (.lsrb) [] := by decide
theorem test_decode_rorb :
    decode [0x56] = .done (.rorb) [] := by decide
theorem test_decode_asrb :
    decode [0x57] = .done (.asrb) [] := by decide
theorem test_decode_aslb :
    decode [0x58] = .done (.aslb) [] := by decide
theorem test_decode_lslb :
    decode [0x58] = .done (.aslb) [] := by decide
theorem test_decode_rolb :
    decode [0x59] = .done (.rolb) [] := by decide
theorem test_decode_decb :
    decode [0x5A] = .done (.decb) [] := by decide
theorem test_decode_incb :
    decode [0x5C] = .done (.incb) [] := by decide
theorem test_decode_tstb :
    decode [0x5D] = .done (.tstb) [] := by decide
theorem test_decode_clrb :
    decode [0x5F] = .done (.clrb) [] := by decide
theorem test_decode_suba :
    decode [0x80, 0x20] = .done (.suba (.imm 0x20)) [] ∧
    decode [0x90, 0x4B] = .done (.suba (.dir 0x4B)) [] ∧
    decode [0xA0, 0xF9, 0x12, 0x34] = .done (.suba (.idx (.off16 .s 0x1234 true))) [] ∧
    decode [0xB0, 0x43, 0xA0] = .done (.suba (.ext 0x43A0)) [] := by decide
theorem test_decode_cmpa :
    decode [0x81, 0x20] = .done (.cmpa (.imm 0x20)) [] ∧
    decode [0x91, 0x4B] = .done (.cmpa (.dir 0x4B)) [] ∧
    decode [0xA1, 0x8C, 0xFE] = .done (.cmpa (.idx (.pcr8 0 0xFE false))) [] ∧
    decode [0xB1, 0x43, 0xA0] = .done (.cmpa (.ext 0x43A0)) [] := by decide
theorem test_decode_sbca :
    decode [0x82, 0x20] = .done (.sbca (.imm 0x20)) [] ∧
    decode [0x92, 0x4B] = .done (.sbca (.dir 0x4B)) [] ∧
    decode [0xA2, 0x9C, 0x05] = .done (.sbca (.idx (.pcr8 0 0x05 true))) [] ∧
    decode [0xB2, 0x43, 0xA0] = .done (.sbca (.ext 0x43A0)) [] := by decide
theorem test_decode_subd :
    decode [0x83, 0xF0, 0x01] = .done (.subd (.imm 0xF001)) [] ∧
    decode [0x93, 0x4B] = .done (.subd (.dir 0x4B)) [] ∧
    decode [0xA3, 0x8D, 0x01, 0x00] = .done (.subd (.idx (.pcr16 0 0x0100 false))) [] ∧
    decode [0xB3, 0x43, 0xA0] = .done (.subd (.ext 0x43A0)) [] := by decide
theorem test_decode_anda :
    decode [0x84, 0x20] = .done (.anda (.imm 0x20)) [] ∧
    decode [0x94, 0x4B] = .done (.anda (.dir 0x4B)) [] ∧
    decode [0xA4, 0x9D, 0xFF, 0x00] = .done (.anda (.idx (.pcr16 0 0xFF00 true))) [] ∧
    decode [0xB4, 0x43, 0xA0] = .done (.anda (.ext 0x43A0)) [] := by decide
theorem test_decode_bita :
    decode [0x85, 0x20] = .done (.bita (.imm 0x20)) [] ∧
    decode [0x95, 0x4B] = .done (.bita (.dir 0x4B)) [] ∧
    decode [0xA5, 0x9F, 0xC2, 0x00] = .done (.bita (.idx (.extInd 0xC200))) [] ∧
    decode [0xB5, 0x43, 0xA0] = .done (.bita (.ext 0x43A0)) [] := by decide
theorem test_decode_lda :
    decode [0x86, 0x20] = .done (.lda (.imm 0x20)) [] ∧
    decode [0x96, 0x4B] = .done (.lda (.dir 0x4B)) [] ∧
    decode [0xA6, 0x50] = .done (.lda (.idx (.off5 .u 0x10))) [] ∧
    decode [0xB6, 0x43, 0xA0] = .done (.lda (.ext 0x43A0)) [] := by decide
theorem test_decode_eora :
    decode [0x88, 0x20] = .done (.eora (.imm 0x20)) [] ∧
    decode [0x98, 0x4B] = .done (.eora (.dir 0x4B)) [] ∧
    decode [0xA8, 0xD4] = .done (.eora (.idx (.noOff .u true))) [] ∧
    decode [0xB8, 0x43, 0xA0] = .done (.eora (.ext 0x43A0)) [] := by decide
theorem test_decode_adca :
    decode [0x89, 0x20] = .done (.adca (.imm 0x20)) [] ∧
    decode [0x99, 0x4B] = .done (.adca (.dir 0x4B)) [] ∧
    decode [0xA9, 0x84] = .done (.adca (.idx (.noOff .x false))) [] ∧
    decode [0xB9, 0x43, 0xA0] = .done (.adca (.ext 0x43A0)) [] := by decide
theorem test_decode_ora :
    decode [0x8A, 0x20] = .done (.ora (.imm 0x20)) [] ∧
    decode [0x9A, 0x4B] = .done (.ora (.dir 0x4B)) [] ∧
    decode [0xAA, 0x1F] = .done (.ora (.idx (.off5 .x 0x1F))) [] ∧
    decode [0xBA, 0x43, 0xA0] = .done (.ora (.ext 0x43A0)) [] := by decide
theorem test_decode_adda :
    decode [0x8B, 0x20] = .done (.adda (.imm 0x20)) [] ∧
    decode [0x9B, 0x4B] = .done (.adda (.dir 0x4B)) [] ∧
    decode [0xAB, 0xA0] = .done (.adda (.idx (.inc1 .y))) [] ∧
    decode [0xBB, 0x43, 0xA0] = .done (.adda (.ext 0x43A0)) [] := by decide
theorem test_decode_cmpx :
    decode [0x8C, 0xF0, 0x01] = .done (.cmpx (.imm 0xF001)) [] ∧
    decode [0x9C, 0x4B] = .done (.cmpx (.dir 0x4B)) [] ∧
    decode [0xAC, 0xC1] = .done (.cmpx (.idx (.inc2 .u false))) [] ∧
    decode [0xBC, 0x43, 0xA0] = .done (.cmpx (.ext 0x43A0)) [] := by decide
theorem test_decode_bsr :
    decode [0x8D, 0xFE] = .done (.bsr 0xFE) [] := by decide
theorem test_decode_ldx :
    decode [0x8E, 0xF0, 0x01] = .done (.ldx (.imm 0xF001)) [] ∧
    decode [0x9E, 0x4B] = .done (.ldx (.dir 0x4B)) [] ∧
    decode [0xAE, 0xE2] = .done (.ldx (.idx (.dec1 .s))) [] ∧
    decode [0xBE, 0x43, 0xA0] = .done (.ldx (.ext 0x43A0)) [] := by decide
theorem test_decode_sta :
    decode [0x97, 0x4B] = .done (.sta (.dir 0x4B)) [] ∧
    decode [0xA7, 0x83] = .done (.sta (.idx (.dec2 .x false))) [] ∧
    decode [0xB7, 0x43, 0xA0] = .done (.sta (.ext 0x43A0)) [] := by decide
theorem test_decode_jsr :
    decode [0x9D, 0x4B] = .done (.jsr (.dir 0x4B)) [] ∧
    decode [0xAD, 0xB3] = .done (.jsr (.idx (.dec2 .y true))) [] ∧
    decode [0xBD, 0x43, 0xA0] = .done (.jsr (.ext 0x43A0)) [] := by decide
theorem test_decode_stx :
    decode [0x9F, 0x4B] = .done (.stx (.dir 0x4B)) [] ∧
    decode [0xAF, 0xD1] = .done (.stx (.idx (.inc2 .u true))) [] ∧
    decode [0xBF, 0x43, 0xA0] = .done (.stx (.ext 0x43A0)) [] := by decide
theorem test_decode_subb :
    decode [0xC0, 0x20] = .done (.subb (.imm 0x20)) [] ∧
    decode [0xD0, 0x4B] = .done (.subb (.dir 0x4B)) [] ∧
    decode [0xE0, 0xA5] = .done (.subb (.idx (.accB .y false))) [] ∧
    decode [0xF0, 0x43, 0xA0] = .done (.subb (.ext 0x43A0)) [] := by decide
theorem test_decode_cmpb :
    decode [0xC1, 0x20] = .done (.cmpb (.imm 0x20)) [] ∧
    decode [0xD1, 0x4B] = .done (.cmpb (.dir 0x4B)) [] ∧
    decode [0xE1, 0xF5] = .done (.cmpb (.idx (.accB .s true))) [] ∧
    decode [0xF1, 0x43, 0xA0] = .done (.cmpb (.ext 0x43A0)) [] := by decide
theorem test_decode_sbcb :
    decode [0xC2, 0x20] = .done (.sbcb (.imm 0x20)) [] ∧
    decode [0xD2, 0x4B] = .done (.sbcb (.dir 0x4B)) [] ∧
    decode [0xE2, 0xC6] = .done (.sbcb (.idx (.accA .u false))) [] ∧
    decode [0xF2, 0x43, 0xA0] = .done (.sbcb (.ext 0x43A0)) [] := by decide
theorem test_decode_addd :
    decode [0xC3, 0xF0, 0x01] = .done (.addd (.imm 0xF001)) [] ∧
    decode [0xD3, 0x4B] = .done (.addd (.dir 0x4B)) [] ∧
    decode [0xE3, 0x96] = .done (.addd (.idx (.accA .x true))) [] ∧
    decode [0xF3, 0x43, 0xA0] = .done (.addd (.ext 0x43A0)) [] := by decide
theorem test_decode_andb :
    decode [0xC4, 0x20] = .done (.andb (.imm 0x20)) [] ∧
    decode [0xD4, 0x4B] = .done (.andb (.dir 0x4B)) [] ∧
    decode [0xE4, 0xEB] = .done (.andb (.idx (.accD .s false))) [] ∧
    decode [0xF4, 0x43, 0xA0] = .done (.andb (.ext 0x43A0)) [] := by decide
theorem test_decode_bitb :
    decode [0xC5, 0x20] = .done (.bitb (.imm 0x20)) [] ∧
    decode [0xD5, 0x4B] = .done (.bitb (.dir 0x4B)) [] ∧
    decode [0xE5, 0xBB] = .done (.bitb (.idx (.accD .y true))) [] ∧
    decode [0xF5, 0x43, 0xA0] = .done (.bitb (.ext 0x43A0)) [] := by decide
theorem test_decode_ldb :
    decode [0xC6, 0x20] = .done (.ldb (.imm 0x20)) [] ∧
    decode [0xD6, 0x4B] = .done (.ldb (.dir 0x4B)) [] ∧
    decode [0xE6, 0x88, 0x80] = .done (.ldb (.idx (.off8 .x 0x80 false))) [] ∧
    decode [0xF6, 0x43, 0xA0] = .done (.ldb (.ext 0x43A0)) [] := by decide
theorem test_decode_eorb :
    decode [0xC8, 0x20] = .done (.eorb (.imm 0x20)) [] ∧
    decode [0xD8, 0x4B] = .done (.eorb (.dir 0x4B)) [] ∧
    decode [0xE8, 0xB8, 0x7F] = .done (.eorb (.idx (.off8 .y 0x7F true))) [] ∧
    decode [0xF8, 0x43, 0xA0] = .done (.eorb (.ext 0x43A0)) [] := by decide
theorem test_decode_adcb :
    decode [0xC9, 0x20] = .done (.adcb (.imm 0x20)) [] ∧
    decode [0xD9, 0x4B] = .done (.adcb (.dir 0x4B)) [] ∧
    decode [0xE9, 0xC9, 0x12, 0x34] = .done (.adcb (.idx (.off16 .u 0x1234 false))) [] ∧
    decode [0xF9, 0x43, 0xA0] = .done (.adcb (.ext 0x43A0)) [] := by decide
theorem test_decode_orb :
    decode [0xCA, 0x20] = .done (.orb (.imm 0x20)) [] ∧
    decode [0xDA, 0x4B] = .done (.orb (.dir 0x4B)) [] ∧
    decode [0xEA, 0xF9, 0x12, 0x34] = .done (.orb (.idx (.off16 .s 0x1234 true))) [] ∧
    decode [0xFA, 0x43, 0xA0] = .done (.orb (.ext 0x43A0)) [] := by decide
theorem test_decode_addb :
    decode [0xCB, 0x20] = .done (.addb (.imm 0x20)) [] ∧
    decode [0xDB, 0x4B] = .done (.addb (.dir 0x4B)) [] ∧
    decode [0xEB, 0x8C, 0xFE] = .done (.addb (.idx (.pcr8 0 0xFE false))) [] ∧
    decode [0xFB, 0x43, 0xA0] = .done (.addb (.ext 0x43A0)) [] := by decide
theorem test_decode_ldd :
    decode [0xCC, 0xF0, 0x01] = .done (.ldd (.imm 0xF001)) [] ∧
    decode [0xDC, 0x4B] = .done (.ldd (.dir 0x4B)) [] ∧
    decode [0xEC, 0x9C, 0x05] = .done (.ldd (.idx (.pcr8 0 0x05 true))) [] ∧
    decode [0xFC, 0x43, 0xA0] = .done (.ldd (.ext 0x43A0)) [] := by decide
theorem test_decode_ldu :
    decode [0xCE, 0xF0, 0x01] = .done (.ldu (.imm 0xF001)) [] ∧
    decode [0xDE, 0x4B] = .done (.ldu (.dir 0x4B)) [] ∧
    decode [0xEE, 0x8D, 0x01, 0x00] = .done (.ldu (.idx (.pcr16 0 0x0100 false))) [] ∧
    decode [0xFE, 0x43, 0xA0] = .done (.ldu (.ext 0x43A0)) [] := by decide
theorem test_decode_stb :
    decode [0xD7, 0x4B] = .done (.stb (.dir 0x4B)) [] ∧
    decode [0xE7, 0x9D, 0xFF, 0x00] = .done (.stb (.idx (.pcr16 0 0xFF00 true))) [] ∧
    decode [0xF7, 0x43, 0xA0] = .done (.stb (.ext 0x43A0)) [] := by decide
theorem test_decode_std :
    decode [0xDD, 0x4B] = .done (.std (.dir 0x4B)) [] ∧
    decode [0xED, 0x9F, 0xC2, 0x00] = .done (.std (.idx (.extInd 0xC200))) [] ∧
    decode [0xFD, 0x43, 0xA0] = .done (.std (.ext 0x43A0)) [] := by decide
theorem test_decode_stu :
    decode [0xDF, 0x4B] = .done (.stu (.dir 0x4B)) [] ∧
    decode [0xEF, 0x50] = .done (.stu (.idx (.off5 .u 0x10))) [] ∧
    decode [0xFF, 0x43, 0xA0] = .done (.stu (.ext 0x43A0)) [] := by decide
theorem test_decode_lbrn :
    decode [0x10, 0x21, 0x01, 0x80] = .done (.lbrn 0x0180) [] := by decide
theorem test_decode_lbhi :
    decode [0x10, 0x22, 0x01, 0x80] = .done (.lbhi 0x0180) [] := by decide
theorem test_decode_lbls :
    decode [0x10, 0x23, 0x01, 0x80] = .done (.lbls 0x0180) [] := by decide
theorem test_decode_lbcc :
    decode [0x10, 0x24, 0x01, 0x80] = .done (.lbcc 0x0180) [] := by decide
theorem test_decode_lbhs :
    decode [0x10, 0x24, 0x01, 0x80] = .done (.lbcc 0x0180) [] := by decide
theorem test_decode_lbcs :
    decode [0x10, 0x25, 0x01, 0x80] = .done (.lbcs 0x0180) [] := by decide
theorem test_decode_lblo :
    decode [0x10, 0x25, 0x01, 0x80] = .done (.lbcs 0x0180) [] := by decide
theorem test_decode_lbne :
    decode [0x10, 0x26, 0x01, 0x80] = .done (.lbne 0x0180) [] := by decide
theorem test_decode_lbeq :
    decode [0x10, 0x27, 0x01, 0x80] = .done (.lbeq 0x0180) [] := by decide
theorem test_decode_lbvc :
    decode [0x10, 0x28, 0x01, 0x80] = .done (.lbvc 0x0180) [] := by decide
theorem test_decode_lbvs :
    decode [0x10, 0x29, 0x01, 0x80] = .done (.lbvs 0x0180) [] := by decide
theorem test_decode_lbpl :
    decode [0x10, 0x2A, 0x01, 0x80] = .done (.lbpl 0x0180) [] := by decide
theorem test_decode_lbmi :
    decode [0x10, 0x2B, 0x01, 0x80] = .done (.lbmi 0x0180) [] := by decide
theorem test_decode_lbge :
    decode [0x10, 0x2C, 0x01, 0x80] = .done (.lbge 0x0180) [] := by decide
theorem test_decode_lblt :
    decode [0x10, 0x2D, 0x01, 0x80] = .done (.lblt 0x0180) [] := by decide
theorem test_decode_lbgt :
    decode [0x10, 0x2E, 0x01, 0x80] = .done (.lbgt 0x0180) [] := by decide
theorem test_decode_lble :
    decode [0x10, 0x2F, 0x01, 0x80] = .done (.lble 0x0180) [] := by decide
theorem test_decode_swi2 :
    decode [0x10, 0x3F] = .done (.swi2) [] := by decide
theorem test_decode_cmpd :
    decode [0x10, 0x83, 0xF0, 0x01] = .done (.cmpd (.imm 0xF001)) [] ∧
    decode [0x10, 0x93, 0x4B] = .done (.cmpd (.dir 0x4B)) [] ∧
    decode [0x10, 0xA3, 0xD4] = .done (.cmpd (.idx (.noOff .u true))) [] ∧
    decode [0x10, 0xB3, 0x43, 0xA0] = .done (.cmpd (.ext 0x43A0)) [] := by decide
theorem test_decode_cmpy :
    decode [0x10, 0x8C, 0xF0, 0x01] = .done (.cmpy (.imm 0xF001)) [] ∧
    decode [0x10, 0x9C, 0x4B] = .done (.cmpy (.dir 0x4B)) [] ∧
    decode [0x10, 0xAC, 0x84] = .done (.cmpy (.idx (.noOff .x false))) [] ∧
    decode [0x10, 0xBC, 0x43, 0xA0] = .done (.cmpy (.ext 0x43A0)) [] := by decide
theorem test_decode_ldy :
    decode [0x10, 0x8E, 0xF0, 0x01] = .done (.ldy (.imm 0xF001)) [] ∧
    decode [0x10, 0x9E, 0x4B] = .done (.ldy (.dir 0x4B)) [] ∧
    decode [0x10, 0xAE, 0x1F] = .done (.ldy (.idx (.off5 .x 0x1F))) [] ∧
    decode [0x10, 0xBE, 0x43, 0xA0] = .done (.ldy (.ext 0x43A0)) [] := by decide
theorem test_decode_sty :
    decode [0x10, 0x9F, 0x4B] = .done (.sty (.dir 0x4B)) [] ∧
    decode [0x10, 0xAF, 0xA0] = .done (.sty (.idx (.inc1 .y))) [] ∧
    decode [0x10, 0xBF, 0x43, 0xA0] = .done (.sty (.ext 0x43A0)) [] := by decide
theorem test_decode_lds :
    decode [0x10, 0xCE, 0xF0, 0x01] = .done (.lds (.imm 0xF001)) [] ∧
    decode [0x10, 0xDE, 0x4B] = .done (.lds (.dir 0x4B)) [] ∧
    decode [0x10, 0xEE, 0xC1] = .done (.lds (.idx (.inc2 .u false))) [] ∧
    decode [0x10, 0xFE, 0x43, 0xA0] = .done (.lds (.ext 0x43A0)) [] := by decide
theorem test_decode_sts :
    decode [0x10, 0xDF, 0x4B] = .done (.sts (.dir 0x4B)) [] ∧
    decode [0x10, 0xEF, 0xE2] = .done (.sts (.idx (.dec1 .s))) [] ∧
    decode [0x10, 0xFF, 0x43, 0xA0] = .done (.sts (.ext 0x43A0)) [] := by decide
theorem test_decode_swi3 :
    decode [0x11, 0x3F] = .done (.swi3) [] := by decide
theorem test_decode_cmpu :
    decode [0x11, 0x83, 0xF0, 0x01] = .done (.cmpu (.imm 0xF001)) [] ∧
    decode [0x11, 0x93, 0x4B] = .done (.cmpu (.dir 0x4B)) [] ∧
    decode [0x11, 0xA3, 0x83] = .done (.cmpu (.idx (.dec2 .x false))) [] ∧
    decode [0x11, 0xB3, 0x43, 0xA0] = .done (.cmpu (.ext 0x43A0)) [] := by decide
theorem test_decode_cmps :
    decode [0x11, 0x8C, 0xF0, 0x01] = .done (.cmps (.imm 0xF001)) [] ∧
    decode [0x11, 0x9C, 0x4B] = .done (.cmps (.dir 0x4B)) [] ∧
    decode [0x11, 0xAC, 0xB3] = .done (.cmps (.idx (.dec2 .y true))) [] ∧
    decode [0x11, 0xBC, 0x43, 0xA0] = .done (.cmps (.ext 0x43A0)) [] := by decide

/-! ## One step of every instruction: a vector of the spec for each -/

/-- NEG <$20 -/
theorem test_neg : let t := ran (start 0x1000 [0x00, 0x20] { State.reset with
      dp := 0x30, cc := 0x00, mem := cells 0x3020 [0x01] [] })
    t.pc = 0x1002 ∧ t.peek 0x3020 = 0xFF := by decide
/-- COM >$3020 -/
theorem test_com : let t := ran (start 0x1000 [0x73, 0x30, 0x20] { State.reset with
      cc := 0x00, mem := cells 0x3020 [0x0F] [] })
    t.cc = 0x09 ∧ t.pc = 0x1003 ∧ t.peek 0x3020 = 0xF0 := by decide
/-- LSR ,X -/
theorem test_lsr : let t := ran (start 0x1000 [0x64, 0x84] { State.reset with
      x := 0x3020, cc := 0x0A, mem := cells 0x3020 [0x81] [] })
    t.cc = 0x03 ∧ t.pc = 0x1002 ∧ t.peek 0x3020 = 0x40 := by decide
/-- ROR ,X -/
theorem test_ror : let t := ran (start 0x1000 [0x66, 0x84] { State.reset with
      x := 0x3020, cc := 0x01, mem := cells 0x3020 [0x01] [] })
    t.cc = 0x09 ∧ t.pc = 0x1002 ∧ t.peek 0x3020 = 0x80 := by decide
/-- ASR ,X -/
theorem test_asr : let t := ran (start 0x1000 [0x67, 0x84] { State.reset with
      x := 0x3020, cc := 0x02, mem := cells 0x3020 [0x81] [] })
    t.pc = 0x1002 ∧ t.peek 0x3020 = 0xC0 := by decide
/-- ASL >$3020 -/
theorem test_asl : let t := ran (start 0x1000 [0x78, 0x30, 0x20] { State.reset with
      cc := 0x00, mem := cells 0x3020 [0xC0] [] })
    t.pc = 0x1003 ∧ t.peek 0x3020 = 0x80 := by decide
/-- An alias acts as the instruction it names (30_encoding.md R124). -/
theorem test_lsl (m : Mem) (t : State) : exec (.lsl m) t = exec (.asl m) t := rfl
/-- ROL >$3020 -/
theorem test_rol : let t := ran (start 0x1000 [0x79, 0x30, 0x20] { State.reset with
      cc := 0x01, mem := cells 0x3020 [0x40] [] })
    t.cc = 0x0A ∧ t.pc = 0x1003 ∧ t.peek 0x3020 = 0x81 := by decide
/-- DEC ,X -/
theorem test_dec : let t := ran (start 0x1000 [0x6A, 0x84] { State.reset with
      x := 0x3020, cc := 0x01, mem := cells 0x3020 [0x80] [] })
    t.cc = 0x03 ∧ t.pc = 0x1002 ∧ t.peek 0x3020 = 0x7F := by decide
/-- INC <$20 -/
theorem test_inc : let t := ran (start 0x1000 [0x0C, 0x20] { State.reset with
      dp := 0x30, cc := 0x01, mem := cells 0x3020 [0x7F] [] })
    t.cc = 0x0B ∧ t.pc = 0x1002 ∧ t.peek 0x3020 = 0x80 := by decide
/-- TST <$20 -/
theorem test_tst : let t := ran (start 0x1000 [0x0D, 0x20] { State.reset with
      dp := 0x30, cc := 0x03, mem := cells 0x3020 [0x80] [] })
    t.cc = 0x09 ∧ t.pc = 0x1002 := by decide
/-- JMP [,Y++] -/
theorem test_jmp : let t := ran (start 0x1000 [0x6E, 0xB1] { State.reset with
      y := 0x3000, cc := 0x00, mem := cells 0x3000 [0x9A, 0xBC] [] })
    t.y = 0x3002 ∧ t.cc = 0x00 ∧ t.pc = 0x9ABC := by decide
/-- CLR ,X+ -/
theorem test_clr : let t := ran (start 0x1000 [0x6F, 0x80] { State.reset with
      x := 0x4000, cc := 0x0B, mem := cells 0x4000 [0x77] [] })
    t.x = 0x4001 ∧ t.cc = 0x04 ∧ t.pc = 0x1002 ∧ t.peek 0x4000 = 0x00 := by decide
/-- NOP -/
theorem test_nop : let t := ran (start 0x1000 [0x12] { State.reset with
      a := 0x12, cc := 0xA5 })
    t.cc = 0xA5 ∧ t.pc = 0x1001 := by decide
/-- SYNC -/
theorem test_sync : let t := ran (start 0x1000 [0x13] { State.reset with
      a := 0x12, cc := 0x50 })
    t.cc = 0x50 ∧ t.pc = 0x1001 ∧ t.run = .syncing := by decide
/-- LBRA $1103 -/
theorem test_lbra : let t := ran (start 0x1000 [0x16, 0x01, 0x00] { State.reset with
      cc := 0x00 })
    t.cc = 0x00 ∧ t.pc = 0x1103 := by decide
/-- LBSR $2003 -/
theorem test_lbsr : let t := ran (start 0x1000 [0x17, 0x10, 0x00] { State.reset with
      s := 0x2000, cc := 0x00 })
    t.s = 0x1FFE ∧ t.cc = 0x00 ∧ t.pc = 0x2003 ∧ t.peek 0x1FFF = 0x03 ∧ t.peek 0x1FFE = 0x10 := by decide
/-- DAA -/
theorem test_daa : let t := ran (start 0x1000 [0x19] { State.reset with
      a := 0x41, cc := 0x20 })
    t.a = 0x47 ∧ t.pc = 0x1001 := by decide
/-- ORCC #$50 -/
theorem test_orcc : let t := ran (start 0x1000 [0x1A, 0x50] { State.reset with
      cc := 0x04 })
    t.cc = 0x54 ∧ t.pc = 0x1002 := by decide
/-- ANDCC #$EF -/
theorem test_andcc : let t := ran (start 0x1000 [0x1C, 0xEF] { State.reset with
      cc := 0xFF })
    t.cc = 0xEF ∧ t.pc = 0x1002 := by decide
/-- SEX -/
theorem test_sex : let t := ran (start 0x1000 [0x1D] { State.reset with
      a := 0x12, b := 0x80, cc := 0x03 })
    t.a = 0xFF ∧ t.cc = 0x0B ∧ t.pc = 0x1001 := by decide
/-- EXG D,X -/
theorem test_exg : let t := ran (start 0x1000 [0x1E, 0x01] { State.reset with
      a := 0x12, b := 0x34, x := 0xABCD, cc := 0x00 })
    t.a = 0xAB ∧ t.b = 0xCD ∧ t.x = 0x1234 ∧ t.cc = 0x00 ∧ t.pc = 0x1002 := by decide
/-- TFR U,D -/
theorem test_tfr : let t := ran (start 0x1000 [0x1F, 0x30] { State.reset with
      u := 0xABCD, cc := 0x00 })
    t.a = 0xAB ∧ t.b = 0xCD ∧ t.cc = 0x00 ∧ t.pc = 0x1002 := by decide
/-- BRA $1012 -/
theorem test_bra : let t := ran (start 0x1000 [0x20, 0x10] { State.reset with
      cc := 0x00 })
    t.cc = 0x00 ∧ t.pc = 0x1012 := by decide
/-- BRN $1012 -/
theorem test_brn : let t := ran (start 0x1000 [0x21, 0x10] { State.reset with
      cc := 0xFF })
    t.cc = 0xFF ∧ t.pc = 0x1002 := by decide
/-- BHI $1012 -/
theorem test_bhi : let t := ran (start 0x1000 [0x22, 0x10] { State.reset with
      cc := 0x00 })
    t.cc = 0x00 ∧ t.pc = 0x1012 := by decide
/-- BLS $1012 -/
theorem test_bls : let t := ran (start 0x1000 [0x23, 0x10] { State.reset with
      cc := 0x01 })
    t.cc = 0x01 ∧ t.pc = 0x1012 := by decide
/-- BCC $1012 -/
theorem test_bcc : let t := ran (start 0x1000 [0x24, 0x10] { State.reset with
      cc := 0x00 })
    t.cc = 0x00 ∧ t.pc = 0x1012 := by decide
/-- An alias acts as the instruction it names (30_encoding.md R124). -/
theorem test_bhs (o : Byte) (t : State) : exec (.bhs o) t = exec (.bcc o) t := rfl
/-- BCS $1012 -/
theorem test_bcs : let t := ran (start 0x1000 [0x25, 0x10] { State.reset with
      cc := 0x01 })
    t.cc = 0x01 ∧ t.pc = 0x1012 := by decide
/-- An alias acts as the instruction it names (30_encoding.md R124). -/
theorem test_blo (o : Byte) (t : State) : exec (.blo o) t = exec (.bcs o) t := rfl
/-- BNE $1012 -/
theorem test_bne : let t := ran (start 0x1000 [0x26, 0x10] { State.reset with
      cc := 0x00 })
    t.cc = 0x00 ∧ t.pc = 0x1012 := by decide
/-- BEQ $1012 -/
theorem test_beq : let t := ran (start 0x1000 [0x27, 0x10] { State.reset with
      cc := 0x04 })
    t.cc = 0x04 ∧ t.pc = 0x1012 := by decide
/-- BVC $1012 -/
theorem test_bvc : let t := ran (start 0x1000 [0x28, 0x10] { State.reset with
      cc := 0x00 })
    t.cc = 0x00 ∧ t.pc = 0x1012 := by decide
/-- BVS $1012 -/
theorem test_bvs : let t := ran (start 0x1000 [0x29, 0x10] { State.reset with
      cc := 0x02 })
    t.cc = 0x02 ∧ t.pc = 0x1012 := by decide
/-- BPL $1012 -/
theorem test_bpl : let t := ran (start 0x1000 [0x2A, 0x10] { State.reset with
      cc := 0x00 })
    t.cc = 0x00 ∧ t.pc = 0x1012 := by decide
/-- BMI $1012 -/
theorem test_bmi : let t := ran (start 0x1000 [0x2B, 0x10] { State.reset with
      cc := 0x08 })
    t.cc = 0x08 ∧ t.pc = 0x1012 := by decide
/-- BGE $1012 -/
theorem test_bge : let t := ran (start 0x1000 [0x2C, 0x10] { State.reset with
      cc := 0x5A })
    t.cc = 0x5A ∧ t.pc = 0x1012 := by decide
/-- BLT $1012 -/
theorem test_blt : let t := ran (start 0x1000 [0x2D, 0x10] { State.reset with
      cc := 0x02 })
    t.cc = 0x02 ∧ t.pc = 0x1012 := by decide
/-- BGT $1012 -/
theorem test_bgt : let t := ran (start 0x1000 [0x2E, 0x10] { State.reset with
      cc := 0x5A })
    t.cc = 0x5A ∧ t.pc = 0x1012 := by decide
/-- BLE $1012 -/
theorem test_ble : let t := ran (start 0x1000 [0x2F, 0x10] { State.reset with
      cc := 0x08 })
    t.cc = 0x08 ∧ t.pc = 0x1012 := by decide
/-- LEAX -1,X -/
theorem test_leax : let t := ran (start 0x1000 [0x30, 0x1F] { State.reset with
      x := 0x0001, cc := 0x00 })
    t.x = 0x0000 ∧ t.cc = 0x04 ∧ t.pc = 0x1002 := by decide
/-- LEAY ,X+ -/
theorem test_leay : let t := ran (start 0x1000 [0x31, 0x80] { State.reset with
      x := 0x1234, cc := 0x00 })
    t.x = 0x1235 ∧ t.y = 0x1234 ∧ t.cc = 0x00 ∧ t.pc = 0x1002 := by decide
/-- LEAS -10,S -/
theorem test_leas : let t := ran (start 0x1000 [0x32, 0x76] { State.reset with
      s := 0x2000, cc := 0x04 })
    t.s = 0x1FF6 ∧ t.cc = 0x04 ∧ t.pc = 0x1002 := by decide
/-- LEAU D,U -/
theorem test_leau : let t := ran (start 0x1000 [0x33, 0xCB] { State.reset with
      a := 0x01, u := 0x4000, cc := 0x00 })
    t.u = 0x4100 ∧ t.cc = 0x00 ∧ t.pc = 0x1002 := by decide
/-- PSHS DP,B,A,CC -/
theorem test_pshs : let t := ran (start 0x0004 [0x34, 0x0F] { State.reset with
      a := 0xAA, b := 0xBB, dp := 0xDD, s := 0x0800, cc := 0xC5 })
    t.s = 0x07FC ∧ t.cc = 0xC5 ∧ t.pc = 0x0006 ∧ t.peek 0x07FF = 0xDD ∧ t.peek 0x07FE = 0xBB ∧ t.peek 0x07FD = 0xAA ∧
    t.peek 0x07FC = 0xC5 := by decide
/-- PULS PC,U,Y,X,DP,B,A,CC -/
theorem test_puls : let t := ran (start 0x1000 [0x35, 0xFF] { State.reset with
      s := 0x1FF4, cc := 0x00, mem := cells 0x1FF4 [0x85, 0xAA, 0xBB, 0xDD, 0x11, 0x22, 0x33, 0x44, 0x55, 0x66, 0x40, 0x00] [] })
    t.a = 0xAA ∧ t.b = 0xBB ∧ t.dp = 0xDD ∧ t.x = 0x1122 ∧ t.y = 0x3344 ∧ t.u = 0x5566 ∧ t.s = 0x2000 ∧ t.cc = 0x85 ∧
    t.pc = 0x4000 := by decide
/-- PSHU X -/
theorem test_pshu : let t := ran (start 0x1000 [0x36, 0x10] { State.reset with
      x := 0xCAFE, u := 0x0001, cc := 0x00 })
    t.u = 0xFFFF ∧ t.cc = 0x00 ∧ t.pc = 0x1002 ∧ t.peek 0x0000 = 0xFE ∧ t.peek 0xFFFF = 0xCA := by decide
/-- PULU PC,S,Y,X,DP,B,A,CC -/
theorem test_pulu : let t := ran (start 0x1000 [0x37, 0xFF] { State.reset with
      u := 0x1FF4, cc := 0x00, mem := cells 0x1FF4 [0x85, 0xAA, 0xBB, 0xDD, 0x11, 0x22, 0x33, 0x44, 0x55, 0x66, 0x40, 0x00] [] })
    t.a = 0xAA ∧ t.b = 0xBB ∧ t.dp = 0xDD ∧ t.x = 0x1122 ∧ t.y = 0x3344 ∧ t.u = 0x2000 ∧ t.s = 0x5566 ∧ t.cc = 0x85 ∧
    t.pc = 0x4000 := by decide
/-- RTS -/
theorem test_rts : let t := ran (start 0x1000 [0x39] { State.reset with
      s := 0x1FFE, cc := 0x0F, mem := cells 0x1FFE [0x10, 0x03] [] })
    t.s = 0x2000 ∧ t.cc = 0x0F ∧ t.pc = 0x1003 := by decide
/-- ABX -/
theorem test_abx : let t := ran (start 0x1000 [0x3A] { State.reset with
      b := 0x20, x := 0xFFF0, cc := 0x0F })
    t.x = 0x0010 ∧ t.cc = 0x0F ∧ t.pc = 0x1001 := by decide
/-- RTI -/
theorem test_rti : let t := ran (start 0x1000 [0x3B] { State.reset with
      s := 0x1FF4, cc := 0x50, mem := cells 0x1FF4 [0x85, 0xAA, 0xBB, 0xDD, 0x11, 0x22, 0x33, 0x44, 0x55, 0x66, 0x40, 0x00] [] })
    t.a = 0xAA ∧ t.b = 0xBB ∧ t.dp = 0xDD ∧ t.x = 0x1122 ∧ t.y = 0x3344 ∧ t.u = 0x5566 ∧ t.s = 0x2000 ∧ t.cc = 0x85 ∧
    t.pc = 0x4000 := by decide
/-- CWAI #$EF -/
theorem test_cwai : let t := ran (start 0x1000 [0x3C, 0xEF] { State.reset with
      a := 0x11, b := 0x22, dp := 0x33, x := 0x4455, y := 0x6677, u := 0x8899, s := 0x2000, cc := 0x55 })
    t.s = 0x1FF4 ∧ t.cc = 0xC5 ∧ t.pc = 0x1002 ∧ t.peek 0x1FFF = 0x02 ∧ t.peek 0x1FFE = 0x10 ∧ t.peek 0x1FF5 = 0x11 ∧
    t.peek 0x1FF4 = 0xC5 ∧ t.run = .cwaiWaiting := by decide
/-- MUL -/
theorem test_mul : let t := ran (start 0x1000 [0x3D] { State.reset with
      a := 0x0C, b := 0x64, cc := 0x0F })
    t.a = 0x04 ∧ t.b = 0xB0 ∧ t.cc = 0x0B ∧ t.pc = 0x1001 := by decide
/-- SWI -/
theorem test_swi : let t := ran (start 0x1000 [0x3F] { State.reset with
      a := 0x11, b := 0x22, dp := 0x33, x := 0x4455, y := 0x6677, u := 0x8899, s := 0x2000, cc := 0x05, mem := cells 0xFFFA [0xE1, 0x00] (cells 0xFFF2 [0xE3, 0x00, 0xE2, 0x00] []) })
    t.s = 0x1FF4 ∧ t.cc = 0xD5 ∧ t.pc = 0xE100 ∧ t.peek 0x1FFF = 0x01 ∧ t.peek 0x1FFE = 0x10 ∧ t.peek 0x1FF5 = 0x11 ∧
    t.peek 0x1FF4 = 0x85 := by decide
/-- NEGA -/
theorem test_nega : let t := ran (start 0x1000 [0x40] { State.reset with
      a := 0x01, cc := 0x00 })
    t.a = 0xFF ∧ t.pc = 0x1001 := by decide
/-- COMA -/
theorem test_coma : let t := ran (start 0x1000 [0x43] { State.reset with
      a := 0x0F, cc := 0x00 })
    t.a = 0xF0 ∧ t.cc = 0x09 ∧ t.pc = 0x1001 := by decide
/-- LSRA -/
theorem test_lsra : let t := ran (start 0x1000 [0x44] { State.reset with
      a := 0x81, cc := 0x0A })
    t.a = 0x40 ∧ t.cc = 0x03 ∧ t.pc = 0x1001 := by decide
/-- RORA -/
theorem test_rora : let t := ran (start 0x1000 [0x46] { State.reset with
      a := 0x01, cc := 0x01 })
    t.a = 0x80 ∧ t.cc = 0x09 ∧ t.pc = 0x1001 := by decide
/-- ASRA -/
theorem test_asra : let t := ran (start 0x1000 [0x47] { State.reset with
      a := 0x81, cc := 0x02 })
    t.a = 0xC0 ∧ t.pc = 0x1001 := by decide
/-- ASLA -/
theorem test_asla : let t := ran (start 0x1000 [0x48] { State.reset with
      a := 0xC0, cc := 0x00 })
    t.a = 0x80 ∧ t.pc = 0x1001 := by decide
/-- An alias acts as the instruction it names (30_encoding.md R124). -/
theorem test_lsla (t : State) : exec (.lsla) t = exec (.asla) t := rfl
/-- ROLA -/
theorem test_rola : let t := ran (start 0x1000 [0x49] { State.reset with
      a := 0x40, cc := 0x01 })
    t.a = 0x81 ∧ t.cc = 0x0A ∧ t.pc = 0x1001 := by decide
/-- DECA -/
theorem test_deca : let t := ran (start 0x1000 [0x4A] { State.reset with
      a := 0x80, cc := 0x01 })
    t.a = 0x7F ∧ t.cc = 0x03 ∧ t.pc = 0x1001 := by decide
/-- INCA -/
theorem test_inca : let t := ran (start 0x1000 [0x4C] { State.reset with
      a := 0x7F, cc := 0x01 })
    t.a = 0x80 ∧ t.cc = 0x0B ∧ t.pc = 0x1001 := by decide
/-- TSTA -/
theorem test_tsta : let t := ran (start 0x1000 [0x4D] { State.reset with
      a := 0x80, cc := 0x03 })
    t.cc = 0x09 ∧ t.pc = 0x1001 := by decide
/-- CLRA -/
theorem test_clra : let t := ran (start 0x1000 [0x4F] { State.reset with
      a := 0x5A, cc := 0x2B })
    t.a = 0x00 ∧ t.cc = 0x24 ∧ t.pc = 0x1001 := by decide
/-- NEGB -/
theorem test_negb : let t := ran (start 0x1000 [0x50] { State.reset with
      b := 0x01, cc := 0x00 })
    t.b = 0xFF ∧ t.pc = 0x1001 := by decide
/-- COMB -/
theorem test_comb : let t := ran (start 0x1000 [0x53] { State.reset with
      b := 0x0F, cc := 0x00 })
    t.b = 0xF0 ∧ t.cc = 0x09 ∧ t.pc = 0x1001 := by decide
/-- LSRB -/
theorem test_lsrb : let t := ran (start 0x1000 [0x54] { State.reset with
      b := 0x81, cc := 0x0A })
    t.b = 0x40 ∧ t.cc = 0x03 ∧ t.pc = 0x1001 := by decide
/-- RORB -/
theorem test_rorb : let t := ran (start 0x1000 [0x56] { State.reset with
      b := 0x01, cc := 0x01 })
    t.b = 0x80 ∧ t.cc = 0x09 ∧ t.pc = 0x1001 := by decide
/-- ASRB -/
theorem test_asrb : let t := ran (start 0x1000 [0x57] { State.reset with
      b := 0x81, cc := 0x02 })
    t.b = 0xC0 ∧ t.pc = 0x1001 := by decide
/-- ASLB -/
theorem test_aslb : let t := ran (start 0x1000 [0x58] { State.reset with
      b := 0xC0, cc := 0x00 })
    t.b = 0x80 ∧ t.pc = 0x1001 := by decide
/-- An alias acts as the instruction it names (30_encoding.md R124). -/
theorem test_lslb (t : State) : exec (.lslb) t = exec (.aslb) t := rfl
/-- ROLB -/
theorem test_rolb : let t := ran (start 0x1000 [0x59] { State.reset with
      b := 0x40, cc := 0x01 })
    t.b = 0x81 ∧ t.cc = 0x0A ∧ t.pc = 0x1001 := by decide
/-- DECB -/
theorem test_decb : let t := ran (start 0x1000 [0x5A] { State.reset with
      b := 0x80, cc := 0x01 })
    t.b = 0x7F ∧ t.cc = 0x03 ∧ t.pc = 0x1001 := by decide
/-- INCB -/
theorem test_incb : let t := ran (start 0x1000 [0x5C] { State.reset with
      b := 0x7F, cc := 0x01 })
    t.b = 0x80 ∧ t.cc = 0x0B ∧ t.pc = 0x1001 := by decide
/-- TSTB -/
theorem test_tstb : let t := ran (start 0x1000 [0x5D] { State.reset with
      b := 0x80, cc := 0x03 })
    t.cc = 0x09 ∧ t.pc = 0x1001 := by decide
/-- CLRB -/
theorem test_clrb : let t := ran (start 0x1000 [0x5F] { State.reset with
      b := 0x5A, cc := 0x2B })
    t.b = 0x00 ∧ t.cc = 0x24 ∧ t.pc = 0x1001 := by decide
/-- SUBA #$01 -/
theorem test_suba : let t := ran (start 0x1000 [0x80, 0x01] { State.reset with
      cc := 0x00 })
    t.a = 0xFF ∧ t.pc = 0x1002 := by decide
/-- CMPA #$20 -/
theorem test_cmpa : let t := ran (start 0x1000 [0x81, 0x20] { State.reset with
      a := 0x10, cc := 0x00 })
    t.pc = 0x1002 := by decide
/-- SBCA #$00 -/
theorem test_sbca : let t := ran (start 0x1000 [0x82, 0x00] { State.reset with
      cc := 0x01 })
    t.a = 0xFF ∧ t.pc = 0x1002 := by decide
/-- SUBD #$0001 -/
theorem test_subd : let t := ran (start 0x1000 [0x83, 0x00, 0x01] { State.reset with
      cc := 0x20 })
    t.a = 0xFF ∧ t.b = 0xFF ∧ t.cc = 0x29 ∧ t.pc = 0x1003 := by decide
/-- ANDA #$0F -/
theorem test_anda : let t := ran (start 0x1000 [0x84, 0x0F] { State.reset with
      a := 0xF0, cc := 0x03 })
    t.a = 0x00 ∧ t.cc = 0x05 ∧ t.pc = 0x1002 := by decide
/-- BITA #$80 -/
theorem test_bita : let t := ran (start 0x1000 [0x85, 0x80] { State.reset with
      a := 0xC3, cc := 0x02 })
    t.cc = 0x08 ∧ t.pc = 0x1002 := by decide
/-- LDA ,X+ -/
theorem test_lda : let t := ran (start 0x1000 [0xA6, 0x80] { State.reset with
      x := 0x2000, cc := 0x00, mem := cells 0x2000 [0x11] [] })
    t.a = 0x11 ∧ t.x = 0x2001 ∧ t.cc = 0x00 ∧ t.pc = 0x1002 := by decide
/-- EORA #$FF -/
theorem test_eora : let t := ran (start 0x1000 [0x88, 0xFF] { State.reset with
      a := 0x0F, cc := 0x01 })
    t.a = 0xF0 ∧ t.cc = 0x09 ∧ t.pc = 0x1002 := by decide
/-- ADCA #$01 -/
theorem test_adca : let t := ran (start 0x1000 [0x89, 0x01] { State.reset with
      a := 0x7F, cc := 0x01 })
    t.a = 0x81 ∧ t.cc = 0x2A ∧ t.pc = 0x1002 := by decide
/-- ORA #$81 -/
theorem test_ora : let t := ran (start 0x1000 [0x8A, 0x81] { State.reset with
      a := 0x02, cc := 0x02 })
    t.a = 0x83 ∧ t.cc = 0x08 ∧ t.pc = 0x1002 := by decide
/-- ADDA #$80 -/
theorem test_adda : let t := ran (start 0x1000 [0x8B, 0x80] { State.reset with
      a := 0x80, cc := 0x00 })
    t.a = 0x00 ∧ t.cc = 0x07 ∧ t.pc = 0x1002 := by decide
/-- CMPX ,X++ -/
theorem test_cmpx : let t := ran (start 0x1000 [0xAC, 0x81] { State.reset with
      x := 0x3000, cc := 0x00, mem := cells 0x3000 [0x30, 0x02] [] })
    t.x = 0x3002 ∧ t.cc = 0x04 ∧ t.pc = 0x1002 := by decide
/-- BSR $1010 -/
theorem test_bsr : let t := ran (start 0x1000 [0x8D, 0x0E] { State.reset with
      s := 0x2000, cc := 0xFF })
    t.s = 0x1FFE ∧ t.cc = 0xFF ∧ t.pc = 0x1010 ∧ t.peek 0x1FFF = 0x02 ∧ t.peek 0x1FFE = 0x10 := by decide
/-- LDX #$8000 -/
theorem test_ldx : let t := ran (start 0x1000 [0x8E, 0x80, 0x00] { State.reset with
      cc := 0x07 })
    t.x = 0x8000 ∧ t.cc = 0x09 ∧ t.pc = 0x1003 := by decide
/-- STA ,X+ -/
theorem test_sta : let t := ran (start 0x1000 [0xA7, 0x80] { State.reset with
      x := 0x3000, cc := 0x08 })
    t.x = 0x3001 ∧ t.cc = 0x04 ∧ t.pc = 0x1002 ∧ t.peek 0x3000 = 0x00 := by decide
/-- JSR >$4000 -/
theorem test_jsr : let t := ran (start 0x1000 [0xBD, 0x40, 0x00] { State.reset with
      s := 0x2000, cc := 0x0F })
    t.s = 0x1FFE ∧ t.cc = 0x0F ∧ t.pc = 0x4000 ∧ t.peek 0x1FFF = 0x03 ∧ t.peek 0x1FFE = 0x10 := by decide
/-- STX ,X++ -/
theorem test_stx : let t := ran (start 0x1000 [0xAF, 0x81] { State.reset with
      x := 0x3000, cc := 0x00 })
    t.x = 0x3002 ∧ t.cc = 0x00 ∧ t.pc = 0x1002 ∧ t.peek 0x3000 = 0x30 ∧ t.peek 0x3001 = 0x02 := by decide
/-- SUBB #$01 -/
theorem test_subb : let t := ran (start 0x1000 [0xC0, 0x01] { State.reset with
      cc := 0x00 })
    t.b = 0xFF ∧ t.pc = 0x1002 := by decide
/-- CMPB #$20 -/
theorem test_cmpb : let t := ran (start 0x1000 [0xC1, 0x20] { State.reset with
      b := 0x10, cc := 0x00 })
    t.pc = 0x1002 := by decide
/-- SBCB #$00 -/
theorem test_sbcb : let t := ran (start 0x1000 [0xC2, 0x00] { State.reset with
      cc := 0x01 })
    t.b = 0xFF ∧ t.pc = 0x1002 := by decide
/-- ADDD #$0001 -/
theorem test_addd : let t := ran (start 0x1000 [0xC3, 0x00, 0x01] { State.reset with
      a := 0xFF, b := 0xFF, cc := 0x00 })
    t.a = 0x00 ∧ t.b = 0x00 ∧ t.cc = 0x05 ∧ t.pc = 0x1003 := by decide
/-- ANDB #$0F -/
theorem test_andb : let t := ran (start 0x1000 [0xC4, 0x0F] { State.reset with
      b := 0xF0, cc := 0x03 })
    t.b = 0x00 ∧ t.cc = 0x05 ∧ t.pc = 0x1002 := by decide
/-- BITB #$80 -/
theorem test_bitb : let t := ran (start 0x1000 [0xC5, 0x80] { State.reset with
      b := 0xC3, cc := 0x02 })
    t.cc = 0x08 ∧ t.pc = 0x1002 := by decide
/-- LDB #$80 -/
theorem test_ldb : let t := ran (start 0x1000 [0xC6, 0x80] { State.reset with
      cc := 0x07 })
    t.b = 0x80 ∧ t.cc = 0x09 ∧ t.pc = 0x1002 := by decide
/-- EORB #$FF -/
theorem test_eorb : let t := ran (start 0x1000 [0xC8, 0xFF] { State.reset with
      b := 0x0F, cc := 0x01 })
    t.b = 0xF0 ∧ t.cc = 0x09 ∧ t.pc = 0x1002 := by decide
/-- ADCB #$01 -/
theorem test_adcb : let t := ran (start 0x1000 [0xC9, 0x01] { State.reset with
      b := 0x7F, cc := 0x01 })
    t.b = 0x81 ∧ t.cc = 0x2A ∧ t.pc = 0x1002 := by decide
/-- ORB #$81 -/
theorem test_orb : let t := ran (start 0x1000 [0xCA, 0x81] { State.reset with
      b := 0x02, cc := 0x02 })
    t.b = 0x83 ∧ t.cc = 0x08 ∧ t.pc = 0x1002 := by decide
/-- ADDB #$80 -/
theorem test_addb : let t := ran (start 0x1000 [0xCB, 0x80] { State.reset with
      b := 0x80, cc := 0x00 })
    t.b = 0x00 ∧ t.cc = 0x07 ∧ t.pc = 0x1002 := by decide
/-- LDD ,Y++ -/
theorem test_ldd : let t := ran (start 0x1000 [0xEC, 0xA1] { State.reset with
      y := 0x2000, cc := 0x00, mem := cells 0x2000 [0x12, 0x34] [] })
    t.a = 0x12 ∧ t.b = 0x34 ∧ t.y = 0x2002 ∧ t.cc = 0x00 ∧ t.pc = 0x1002 := by decide
/-- LDU #$8000 -/
theorem test_ldu : let t := ran (start 0x1000 [0xCE, 0x80, 0x00] { State.reset with
      cc := 0x07 })
    t.u = 0x8000 ∧ t.cc = 0x09 ∧ t.pc = 0x1003 := by decide
/-- STB <$10 -/
theorem test_stb : let t := ran (start 0x1000 [0xD7, 0x10] { State.reset with
      b := 0x80, dp := 0x20, cc := 0x03 })
    t.cc = 0x09 ∧ t.pc = 0x1002 ∧ t.peek 0x2010 = 0x80 := by decide
/-- STD ,--S -/
theorem test_std : let t := ran (start 0x1000 [0xED, 0xE3] { State.reset with
      s := 0x2000, cc := 0x08 })
    t.s = 0x1FFE ∧ t.cc = 0x04 ∧ t.pc = 0x1002 ∧ t.peek 0x1FFE = 0x00 ∧ t.peek 0x1FFF = 0x00 := by decide
/-- STU <$10 -/
theorem test_stu : let t := ran (start 0x1000 [0xDF, 0x10] { State.reset with
      dp := 0x20, u := 0x8001, cc := 0x03 })
    t.cc = 0x09 ∧ t.pc = 0x1002 ∧ t.peek 0x2010 = 0x80 ∧ t.peek 0x2011 = 0x01 := by decide
/-- LBRN $1104 -/
theorem test_lbrn : let t := ran (start 0x1000 [0x10, 0x21, 0x01, 0x00] { State.reset with
      cc := 0xFF })
    t.cc = 0xFF ∧ t.pc = 0x1004 := by decide
/-- LBHI $1104 -/
theorem test_lbhi : let t := ran (start 0x1000 [0x10, 0x22, 0x01, 0x00] { State.reset with
      cc := 0x00 })
    t.cc = 0x00 ∧ t.pc = 0x1104 := by decide
/-- LBLS $1104 -/
theorem test_lbls : let t := ran (start 0x1000 [0x10, 0x23, 0x01, 0x00] { State.reset with
      cc := 0x01 })
    t.cc = 0x01 ∧ t.pc = 0x1104 := by decide
/-- LBCC $1104 -/
theorem test_lbcc : let t := ran (start 0x1000 [0x10, 0x24, 0x01, 0x00] { State.reset with
      cc := 0x00 })
    t.cc = 0x00 ∧ t.pc = 0x1104 := by decide
/-- An alias acts as the instruction it names (30_encoding.md R124). -/
theorem test_lbhs (o : Word) (t : State) : exec (.lbhs o) t = exec (.lbcc o) t := rfl
/-- LBCS $1104 -/
theorem test_lbcs : let t := ran (start 0x1000 [0x10, 0x25, 0x01, 0x00] { State.reset with
      cc := 0x01 })
    t.cc = 0x01 ∧ t.pc = 0x1104 := by decide
/-- An alias acts as the instruction it names (30_encoding.md R124). -/
theorem test_lblo (o : Word) (t : State) : exec (.lblo o) t = exec (.lbcs o) t := rfl
/-- LBNE $1104 -/
theorem test_lbne : let t := ran (start 0x1000 [0x10, 0x26, 0x01, 0x00] { State.reset with
      cc := 0x00 })
    t.cc = 0x00 ∧ t.pc = 0x1104 := by decide
/-- LBEQ $1104 -/
theorem test_lbeq : let t := ran (start 0x1000 [0x10, 0x27, 0x01, 0x00] { State.reset with
      cc := 0x04 })
    t.cc = 0x04 ∧ t.pc = 0x1104 := by decide
/-- LBVC $1104 -/
theorem test_lbvc : let t := ran (start 0x1000 [0x10, 0x28, 0x01, 0x00] { State.reset with
      cc := 0x00 })
    t.cc = 0x00 ∧ t.pc = 0x1104 := by decide
/-- LBVS $1104 -/
theorem test_lbvs : let t := ran (start 0x1000 [0x10, 0x29, 0x01, 0x00] { State.reset with
      cc := 0x02 })
    t.cc = 0x02 ∧ t.pc = 0x1104 := by decide
/-- LBPL $1104 -/
theorem test_lbpl : let t := ran (start 0x1000 [0x10, 0x2A, 0x01, 0x00] { State.reset with
      cc := 0x00 })
    t.cc = 0x00 ∧ t.pc = 0x1104 := by decide
/-- LBMI $1104 -/
theorem test_lbmi : let t := ran (start 0x1000 [0x10, 0x2B, 0x01, 0x00] { State.reset with
      cc := 0x08 })
    t.cc = 0x08 ∧ t.pc = 0x1104 := by decide
/-- LBGE $1104 -/
theorem test_lbge : let t := ran (start 0x1000 [0x10, 0x2C, 0x01, 0x00] { State.reset with
      cc := 0x0A })
    t.cc = 0x0A ∧ t.pc = 0x1104 := by decide
/-- LBLT $1104 -/
theorem test_lblt : let t := ran (start 0x1000 [0x10, 0x2D, 0x01, 0x00] { State.reset with
      cc := 0x02 })
    t.cc = 0x02 ∧ t.pc = 0x1104 := by decide
/-- LBGT $1104 -/
theorem test_lbgt : let t := ran (start 0x1000 [0x10, 0x2E, 0x01, 0x00] { State.reset with
      cc := 0x0A })
    t.cc = 0x0A ∧ t.pc = 0x1104 := by decide
/-- LBLE $1104 -/
theorem test_lble : let t := ran (start 0x1000 [0x10, 0x2F, 0x01, 0x00] { State.reset with
      cc := 0x08 })
    t.cc = 0x08 ∧ t.pc = 0x1104 := by decide
/-- SWI2 -/
theorem test_swi2 : let t := ran (start 0x1000 [0x10, 0x3F] { State.reset with
      a := 0x11, b := 0x22, dp := 0x33, x := 0x4455, y := 0x6677, u := 0x8899, s := 0x2000, cc := 0x05, mem := cells 0xFFFA [0xE1, 0x00] (cells 0xFFF2 [0xE3, 0x00, 0xE2, 0x00] []) })
    t.s = 0x1FF4 ∧ t.cc = 0x85 ∧ t.pc = 0xE200 ∧ t.peek 0x1FFF = 0x02 ∧ t.peek 0x1FFE = 0x10 ∧ t.peek 0x1FF5 = 0x11 ∧
    t.peek 0x1FF4 = 0x85 := by decide
/-- CMPD #$2000 -/
theorem test_cmpd : let t := ran (start 0x1000 [0x10, 0x83, 0x20, 0x00] { State.reset with
      a := 0x10, cc := 0x00 })
    t.cc = 0x09 ∧ t.pc = 0x1004 := by decide
/-- CMPY #$0001 -/
theorem test_cmpy : let t := ran (start 0x1000 [0x10, 0x8C, 0x00, 0x01] { State.reset with
      y := 0x8000, cc := 0x00 })
    t.cc = 0x02 ∧ t.pc = 0x1004 := by decide
/-- LDY #$8000 -/
theorem test_ldy : let t := ran (start 0x1000 [0x10, 0x8E, 0x80, 0x00] { State.reset with
      cc := 0x07 })
    t.y = 0x8000 ∧ t.cc = 0x09 ∧ t.pc = 0x1004 := by decide
/-- STY <$10 -/
theorem test_sty : let t := ran (start 0x1000 [0x10, 0x9F, 0x10] { State.reset with
      dp := 0x20, y := 0x8001, cc := 0x03 })
    t.cc = 0x09 ∧ t.pc = 0x1003 ∧ t.peek 0x2010 = 0x80 ∧ t.peek 0x2011 = 0x01 := by decide
/-- LDS #$8000 -/
theorem test_lds : let t := ran (start 0x1000 [0x10, 0xCE, 0x80, 0x00] { State.reset with
      cc := 0x07 })
    t.s = 0x8000 ∧ t.cc = 0x09 ∧ t.pc = 0x1004 := by decide
/-- STS <$10 -/
theorem test_sts : let t := ran (start 0x1000 [0x10, 0xDF, 0x10] { State.reset with
      dp := 0x20, s := 0x8001, cc := 0x03 })
    t.cc = 0x09 ∧ t.pc = 0x1003 ∧ t.peek 0x2010 = 0x80 ∧ t.peek 0x2011 = 0x01 := by decide
/-- SWI3 -/
theorem test_swi3 : let t := ran (start 0x1000 [0x11, 0x3F] { State.reset with
      a := 0x11, b := 0x22, dp := 0x33, x := 0x4455, y := 0x6677, u := 0x8899, s := 0x2000, cc := 0x05, mem := cells 0xFFFA [0xE1, 0x00] (cells 0xFFF2 [0xE3, 0x00, 0xE2, 0x00] []) })
    t.s = 0x1FF4 ∧ t.cc = 0x85 ∧ t.pc = 0xE300 ∧ t.peek 0x1FFF = 0x02 ∧ t.peek 0x1FFE = 0x10 ∧ t.peek 0x1FF5 = 0x11 ∧
    t.peek 0x1FF4 = 0x85 := by decide
/-- CMPU #$FFFF -/
theorem test_cmpu : let t := ran (start 0x1000 [0x11, 0x83, 0xFF, 0xFF] { State.reset with
      cc := 0x00 })
    t.cc = 0x01 ∧ t.pc = 0x1004 := by decide
/-- CMPS #$8000 -/
theorem test_cmps : let t := ran (start 0x1000 [0x11, 0x8C, 0x80, 0x00] { State.reset with
      s := 0x7FFF, cc := 0x00 })
    t.cc = 0x0B ∧ t.pc = 0x1004 := by decide

/-! ## Flags of the operations that leave one flag free: the defined ones (the `x` of the vectors of
96_test_vectors_derived.md is the free one) -/

/-- `1000: 81 20` CMPA #$20 with A=$10: CC=00x01001 (R182). -/
theorem test_cmpa_flags : let t := cmpAcc .a (.imm 0x20) ({ State.reset with a := 0x10, cc := 0x00 } : State)
    t.flag .n = true ∧ t.flag .z = false ∧ t.flag .v = false ∧ t.flag .c = true := by
  simp [cmpAcc, operand8, State.setNZVC, State.setNZV, State.setNZ, State.acc, subBits]; decide
/-- `1000: 48` ASLA with A=$C0: CC=00x01001 (R201). -/
theorem test_asla_flags : let t := (aslByte 0xC0 ({ State.reset with cc := 0x00 } : State)).2
    t.flag .n = true ∧ t.flag .z = false ∧ t.flag .v = false ∧ t.flag .c = true := by
  simp [aslByte, State.setNZVC, State.setNZV, State.setNZ]; decide
/-- `1000: 47` ASRA with A=$81 and V set: CC=00x01011 (R204). -/
theorem test_asra_flags : let t := (asrByte 0x81 ({ State.reset with cc := 0x02 } : State)).2
    t.flag .n = true ∧ t.flag .z = false ∧ t.flag .v = true ∧ t.flag .c = true := by
  simp [asrByte, State.setNZC, State.setNZ]; decide
/-- NEG of $80 gives $80 with N, V and C set (R225). -/
theorem test_nega_flags : let t := (negByte 0x80 ({ State.reset with cc := 0x00 } : State)).2
    t.flag .n = true ∧ t.flag .z = false ∧ t.flag .v = true ∧ t.flag .c = true := by
  simp [negByte, State.setNZVC, State.setNZV, State.setNZ, subBits]; decide

/-! ## Interrupts, waits and reset (60_exceptions.md, 70_reset_and_hazards.md): the first example of each rule -/

/-- The IRQ entry of R412's example. -/
theorem test_irq_entry : let t := after (stepWithPins { Pins.inactive with irq := true }
      { State.reset with s := 0x2000, pc := 0xC008, a := 0x01, cc := 0x40, mem := cells 0xFFF8 [0xF8, 0x00] [] })
    t.s = 0x1FF4 ∧ t.cc = 0xD0 ∧ t.pc = 0xF800 ∧ t.peekBytes 0x1FF4 2 = [0xC0, 0x01] ∧ t.peekBytes 0x1FFE 2 = [0xC0, 0x08] := by
  decide
/-- The FIRQ entry of R411's example. -/
theorem test_firq_entry : let t := after (stepWithPins { Pins.inactive with firq := true }
      { State.reset with s := 0x2000, pc := 0x1000, cc := 0x00, mem := cells 0xFFF6 [0xF6, 0x00] [] })
    t.s = 0x1FFD ∧ t.cc = 0x50 ∧ t.pc = 0xF600 ∧ t.peekBytes 0x1FFD 3 = [0x00, 0x10, 0x00] := by decide
/-- The NMI entry of R410's example, from the edge on. -/
theorem test_nmi_entry : let t := ran { State.reset with
      s := 0x2000, pc := 0x1005, cc := 0x50, nmiArmed := true, pins := [{ Pins.inactive with nmiEdge := true }],
      mem := cells 0xFFFC [0xFC, 0x00] [] }
    t.s = 0x1FF4 ∧ t.cc = 0xD0 ∧ t.pc = 0xFC00 ∧ t.nmiPending = false ∧ t.peek 0x1FF4 = 0xD0 := by decide
/-- NMI is taken before FIRQ, and FIRQ before IRQ (R408). -/
theorem test_priority : let p := { Pins.inactive with firq := true, irq := true }
    recognised p { State.reset with cc := 0x00, nmiPending := true, nmiArmed := true } = some .nmi ∧
    recognised p { State.reset with cc := 0x00, nmiPending := true } = some .firq ∧
    recognised p { State.reset with cc := 0x40 } = some .irq ∧ recognised p State.reset = none := by decide
/-- The first step of R461's example. -/
theorem test_reset_sequence : let t := after (stepWithPins { Pins.inactive with reset := true } { State.reset with
      a := 0x12, b := 0x34, dp := 0x56, s := 0x2468, cc := 0x8F, nmiArmed := true, run := .syncing, mem := cells 0xFFFE [0xC0, 0x00] [] })
    t.a = 0x12 ∧ t.dp = 0x00 ∧ t.s = 0x2468 ∧ t.cc = 0xDF ∧ t.pc = 0xC000 ∧ t.nmiArmed = false ∧ t.run = .running := by decide
/-- A line held by the other bus master's write is seen by the next access (20_memory.md R74). -/
theorem test_agent_write_seen :
    (readByte 0x2000 { State.reset with agent := [[(0x2000, 0x5A)]] }).1 = 0x5A := by decide
/-- The pins of a step's cycles (10_state.md R44, 20_memory.md R66, 60_exceptions.md R431): STA $43A0 fetches three
bytes and writes one, with BA and BS zero. -/
theorem test_store_bus : (ran (start 0x1000 [0xB7, 0x43, 0xA0] { State.reset with a := 0x5A })).bus.map BusCycle.outputs =
    [⟨some 0x1000, some true, (false, false)⟩, ⟨some 0x1001, some true, (false, false)⟩,
     ⟨some 0x1002, some true, (false, false)⟩, ⟨some 0x43A0, some false, (false, false)⟩] := by decide
/-- The FIRQ entry pushes three bytes, and its two vector reads acknowledge: BA 0, BS 1 (R411, R414, R431). -/
theorem test_vector_bus : (ran { State.reset with
      s := 0x2000, cc := 0x00, pins := [{ Pins.inactive with firq := true }] }).bus.map BusCycle.outputs =
    [⟨some 0x1FFF, some false, (false, false)⟩, ⟨some 0x1FFE, some false, (false, false)⟩,
     ⟨some 0x1FFD, some false, (false, false)⟩, ⟨some 0xFFF6, some true, (false, true)⟩,
     ⟨some 0xFFF7, some true, (false, true)⟩] := by decide
/-- A DMA cycle shows BA 1 and BS 1 (R431, 20_memory.md R74); here before the fetch of NOP. -/
theorem test_grant_bus : (ran (start 0x1000 [0x12] { State.reset with agent := [[(0x2000, 0x5A)]] })).bus.map
    (fun c => c.outputs.baBs) = [(true, true), (false, false)] := by decide
/-- Masked FIRQ and IRQ are not entered by a running machine: LDA #$01 runs (60_exceptions.md R406, R407). -/
theorem test_masked_lines_not_entered : let t := ran { start 0x1000 [0x86, 0x01] State.reset with
      pins := [{ Pins.inactive with firq := true, irq := true }] }
    t.a = 0x01 ∧ t.pc = 0x1002 ∧ t.s = 0x0000 := by decide
/-- LDA ,X+ leaves X one higher, and LDA ,--X loads from two below (40_addressing_modes.md R138, R141). -/
theorem test_pointer_after_operand : let t := fun pb => ran (start 0x1000 [0xA6, pb] { State.reset with
      x := 0x2000, mem := cells 0x1FFE [0x22, 0x11, 0x33] [] })
    (t 0x80).a = 0x33 ∧ (t 0x80).x = 0x2001 ∧ (t 0x83).a = 0x22 ∧ (t 0x83).x = 0x1FFE := by decide
/-- ROM drops a write (20_memory.md R69). -/
theorem test_rom_kept : let rom := { State.reset with platform := [{ first := 0xF000, last := 0xFFFF, kind := .rom }] }
    (writeByte 0xF000 0x12 rom).peek 0xF000 = 0x00 ∧ (writeByte 0xEFFF 0x12 rom).peek 0xEFFF = 0x12 := by decide
/-- `State.withFetchWord` makes the next step run the word, from reset. -/
theorem test_fetch_word : (ran (State.reset.withFetchWord 8 0x4C)).a = 0x01 ∧
    (ran (State.reset.withFetchWord 16 0x108E)).pc = 0x0004 ∧ decodeTableWord 16 0x103F = some .swi2 := by decide

/-! ## Witnesses: for each statement with hypotheses, a state and operands that meet all of them together -/

/-- No other bus master, canonical memory, RAM everywhere: what most statements about memory ask for. -/
theorem witness_quiet_ram : Quiet State.reset ∧ Canonical State.reset ∧ ∀ addr, Ram State.reset addr ∧ Plain State.reset addr :=
  ⟨rfl, rfl, fun _ => ⟨rfl, .inl rfl⟩⟩
theorem witness_step_keeps_memory_canonical : Canonical State.reset ∧ ∃ t', step State.reset = .next t' :=
  ⟨rfl, _, rfl⟩
theorem witness_read_returns_last_write : Quiet State.reset ∧ Canonical State.reset ∧ Ram State.reset 0xFFFF ∧
    (0x0000 : Word) ≠ 0xFFFF ∧ Plain State.reset 0x0000 := ⟨rfl, rfl, rfl, by decide, .inl rfl⟩
/-- At the top of memory the second byte of a word lies at $0000. -/
theorem witness_word_store_is_big_endian : Quiet State.reset ∧ Canonical State.reset ∧ Ram State.reset 0xFFFF ∧
    Ram State.reset (0xFFFF + 1) := ⟨rfl, rfl, rfl, rfl⟩
theorem witness_decode_of_encode : (Instr.exg .d .pc).wellFormed = true ∧ (Instr.lsl (.dir 0xFF)).wellFormed = true := by
  decide
theorem witness_decoded_bytes_are_the_encoding : decode [0x1F, 0x8B, 0xFF] = .done (.tfr .a .dp) [0xFF] := by decide
/-- An instruction of one byte with no pin schedule; and one of five bytes that wraps past $FFFF, under a sample with
masked FIRQ and IRQ low and an NMI edge that is not armed. -/
theorem witness_step_runs_decoded_instruction :
    (let t := start 0x1000 [0x12] State.reset
     let p := t.pins.headD Pins.inactive
     t.run = .running ∧ p.reset = false ∧ p.halt = false ∧ Quiet t ∧
     ((t.nmiPending || p.nmiEdge) && t.nmiArmed) = false ∧ (p.firq && !t.flag .f) = false ∧
     (p.irq && !t.flag .i) = false ∧ (∀ addr ∈ upFrom t.pc 1, Plain t addr) ∧
     decode (t.peekBytes t.pc 1) = .done .nop [] ∧ 1 ≤ maxLength) ∧
    (let t := { State.reset with
       pc := 0xFFFE, mem := cells 0x0000 [0x89, 0x12, 0x34] (cells 0xFFFE [0x10, 0xAE] []),
       pins := [{ Pins.inactive with firq := true, irq := true, nmiEdge := true }] }
     let p := t.pins.headD Pins.inactive
     t.run = .running ∧ p.reset = false ∧ p.halt = false ∧ Quiet t ∧
     ((t.nmiPending || p.nmiEdge) && t.nmiArmed) = false ∧ (p.firq && !t.flag .f) = false ∧
     (p.irq && !t.flag .i) = false ∧ (∀ addr ∈ upFrom t.pc 5, Plain t addr) ∧
     decode (t.peekBytes t.pc 5) = .done (.ldy (.idx (.off16 .x 0x1234 false))) [] ∧ 5 ≤ maxLength) :=
  ⟨⟨rfl, rfl, rfl, rfl, rfl, rfl, rfl, fun _ _ => .inl rfl, by decide, by decide⟩,
    ⟨rfl, rfl, rfl, rfl, rfl, by decide, by decide, fun _ _ => .inl rfl, by decide, by decide⟩⟩
theorem witness_step_faults_on_illegal_bytes :
    (let t := { start 0x1000 [0x01] State.reset with pins := [{ Pins.inactive with firq := true, irq := true }] }
     let p := t.pins.headD Pins.inactive
     t.run = .running ∧ p.reset = false ∧ p.halt = false ∧ Quiet t ∧
     ((t.nmiPending || p.nmiEdge) && t.nmiArmed) = false ∧ (p.firq && !t.flag .f) = false ∧
     (p.irq && !t.flag .i) = false ∧ (∀ addr ∈ upFrom t.pc 1, Plain t addr) ∧
     decode (t.peekBytes t.pc 1) = .illegal (.illegalOpcode [0x01]) ∧ 1 ≤ maxLength) ∧
    (let t := start 0x1000 [0x10, 0xA6, 0x87] State.reset
     Quiet t ∧ decode (t.peekBytes t.pc 2) = .illegal (.illegalOpcode [0x10, 0xA6])) :=
  ⟨⟨rfl, rfl, rfl, rfl, rfl, by decide, by decide, fun _ _ => .inl rfl, by decide, by decide⟩, rfl, by decide⟩
theorem witness_every_instruction_completes : (Instr.tfr .s .s).wellFormed = true := by decide
/-- Each clause: direct with DP $FF at the top of memory, extended, indexed, and indirect through a wrapping pointer. -/
theorem witness_operands_read_their_address :
    (let t := { State.reset with dp := 0xFF }
     Quiet t ∧ (0xFFFF : Word).toNat = 256 * t.dp.toNat + (0xFF : Byte).toNat ∧ Plain t 0xFFFF ∧ Plain t (0xFFFF + 1)) ∧
    Plain State.reset (indexedEA (.off5 .x 0x10) State.reset).1 ∧ indexedIndirect (.off5 .x 0x10) = false ∧
    indexedIndirect (.extInd 0xFFFF) = true ∧ Plain State.reset (indexedBase (.extInd 0xFFFF) State.reset) ∧
    Plain State.reset (indexedBase (.extInd 0xFFFF) State.reset + 1) :=
  ⟨⟨rfl, by decide, .inl rfl, .inl rfl⟩, .inl rfl, rfl, rfl, .inl rfl, .inl rfl⟩
theorem witness_modify_accumulator_result : Instr.lslb ∈ ByteOp.accInstrs .asl .b ∧ Instr.rora ∈ ByteOp.accInstrs .ror .a := by
  decide
theorem witness_modify_memory_result : Instr.clr (.dir 0xFF) ∈ ByteOp.memInstrs .clr (.dir 0xFF) ∧
    Quiet State.reset ∧ Canonical State.reset := ⟨by decide, rfl, rfl⟩
theorem witness_modify_reads_then_writes_device :
    (let t := { State.reset with platform := [{ first := 0xE000, last := 0xE000, kind := .device }] }
     Instr.clr (.ext 0xE000) ∈ ByteOp.memInstrs .clr (.ext 0xE000) ∧ t.kindAt (memEA (.ext 0xE000) t).1 = .device) := by decide
/-- The greatest digits: 99 + 99. -/
theorem witness_decimal_addition_is_correct :
    (let t := { State.reset with a := 0x99 }
     (9 : Nat) < 10 ∧ t.a.toNat = 16 * 9 + 9 ∧ (0x99 : Byte).toNat = 16 * 9 + 9) := by decide
/-- A pointer at $0000, so that the push wraps to $FFFF. -/
theorem witness_push_and_pull_primitives : Quiet State.reset ∧ Canonical State.reset ∧
    Ram State.reset (State.reset.ptr .u - 1) ∧ Ram State.reset (State.reset.ptr .u - 2) := ⟨rfl, rfl, rfl, rfl⟩
/-- The full list and the empty one, from a stack in RAM. -/
theorem witness_push_and_pull_lists : Quiet State.reset ∧ Canonical State.reset ∧
    (∀ addr ∈ below State.reset.s (listCount 0xFF), Ram State.reset addr) ∧
    (∀ addr ∈ upFrom State.reset.u (listCount 0xFF), Plain State.reset addr) ∧ listCount 0x00 = 0 ∧ listCount 0xFF = 12 :=
  ⟨rfl, rfl, fun _ _ => rfl, fun _ _ => .inl rfl, rfl, rfl⟩
theorem witness_transfer_and_exchange_result : Reg.sameSize .cc .dp = true ∧ Reg.sameSize .s .pc = true := by decide
/-- Both outcomes of the second clause: an undefined code at either end of the legal ranges, and a legal pair. -/
theorem witness_mixed_sizes_fault : Reg.sameSize .d .cc = false ∧
    decode [0x1E, 0x60] = .illegal (.illegalRegisterCode 0x60) ∧ decode [0x1F, 0x7B] = .illegal (.illegalRegisterCode 0x7B) ∧
    decode [0x1F, 0x8C] = .illegal (.illegalRegisterCode 0x8C) ∧ decode [0x1F, 0x55] = .done (.tfr .pc .pc) [] ∧
    decode [0x1F, 0xBB] = .done (.tfr .dp .dp) [] := by decide
/-- The first and the last code, taken and not taken, short and long. -/
theorem witness_branch_result : Instr.bra 0x80 ∈ shortBranches 0 0x80 ∧ Instr.ble 0x7F ∈ shortBranches 15 0x7F ∧
    Instr.lbra 0x8000 ∈ longBranches 0 0x8000 ∧ Instr.lbhs 0x7FFF ∈ longBranches 4 0x7FFF ∧
    branchTaken 0 false false false false = true ∧ branchTaken 1 true true true true = false ∧
    branchTaken 15 false true false false = true ∧ branchTaken 15 false false false false = false := by decide
theorem witness_compare_then_branch_orders : (∃ t', exec (.cmpa (.imm 0x80)) State.reset = .next t') ∧
    ∃ t', exec (.cmpx (.imm 0x8000)) State.reset = .next t' := ⟨⟨_, rfl⟩, ⟨_, rfl⟩⟩
/-- RTI with the E bit of the pulled CC set, and with it clear. -/
theorem witness_return_result : Quiet State.reset ∧ (∀ addr ∈ upFrom State.reset.s 12, Plain State.reset addr) ∧
    (returnFromException { State.reset with mem := cells 0x0000 [0x80] [] }).flag .e = true ∧
    (returnFromException State.reset).flag .e = false :=
  ⟨rfl, fun _ _ => .inl rfl, by decide, by decide⟩
theorem witness_rti_undoes_swi : Quiet State.reset ∧ Canonical State.reset ∧
    (∀ addr ∈ below State.reset.s 12, Ram State.reset addr) ∧ ∃ t1, exec .swi State.reset = .next t1 :=
  ⟨rfl, rfl, fun _ _ => rfl, _, rfl⟩
/-- A schedule with two writes to one address of RAM and one to ROM; a state without a schedule; plain addresses. -/
theorem witness_boundary_takes_inputs :
    (let t := { State.reset with
       agent := [[(0x2000, 0x11), (0x2000, 0x5A), (0xF000, 0x77)]],
       platform := [{ first := 0xF000, last := 0xFFFF, kind := .rom }] }
     t.agent = [(0x2000, 0x11), (0x2000, 0x5A), (0xF000, 0x77)] :: [] ∧ Canonical t ∧ Ram t 0x2000 ∧ ¬ Ram t 0xF000 ∧
     Plain t 0xF000) ∧ State.reset.agent = [] ∧ Loc.pc ≠ .nmiPending :=
  ⟨⟨rfl, rfl, rfl, by unfold Ram; decide, .inr (by decide)⟩, rfl, by decide⟩
theorem witness_nmi_entry : (let p := { Pins.inactive with firq := true, irq := true }
    let t := { State.reset with nmiPending := true, nmiArmed := true }
    p.reset = false ∧ p.halt = false ∧ t.run = .running ∧ t.nmiPending = true ∧ t.nmiArmed = true) := by decide
theorem witness_firq_entry : (let p := { Pins.inactive with firq := true }
    let t := { State.reset with cc := 0x10, nmiPending := true }
    p.reset = false ∧ p.halt = false ∧ t.run = .running ∧ (t.nmiPending && t.nmiArmed) = false ∧ p.firq = true ∧
    t.flag .f = false) := by decide
theorem witness_irq_entry : (let p := { Pins.inactive with firq := true, irq := true }
    let t := { State.reset with cc := 0x40 }
    p.reset = false ∧ p.halt = false ∧ t.run = .running ∧ (t.nmiPending && t.nmiArmed) = false ∧
    (p.firq && !t.flag .f) = false ∧ p.irq = true ∧ t.flag .i = false) := by decide
/-- One state for each of the four clauses. -/
theorem witness_cwai_wait_ends_on_unmasked :
    (let p := { Pins.inactive with firq := true, irq := true }
     let t := { State.reset with run := .cwaiWaiting, cc := 0x80 }
     p.reset = false ∧ p.halt = false ∧ t.run = .cwaiWaiting ∧
     ({ t with nmiPending := true, nmiArmed := true }.nmiPending && true) = true ∧
     ((t.nmiPending && t.nmiArmed) = false ∧ (p.firq && !t.flag .f) = true) ∧
     ((p.firq && !{ t with cc := 0xC0 }.flag .f) = false ∧ (p.irq && !{ t with cc := 0xC0 }.flag .i) = true) ∧
     ((p.firq && !{ t with cc := 0xD0 }.flag .f) = false ∧ (p.irq && !{ t with cc := 0xD0 }.flag .i) = false)) := by decide
/-- A masked line wakes; a blocked NMI does not; a short pulse. -/
theorem witness_sync_wait_ends_on_any_line :
    (let t := { State.reset with run := .syncing, nmiPending := true }
     let p := { Pins.inactive with irq := true }
     let q := { Pins.inactive with irq := true, syncShort := true }
     p.reset = false ∧ p.halt = false ∧ t.run = .syncing ∧
     ((t.nmiPending && t.nmiArmed) || Pins.inactive.firq || Pins.inactive.irq) = false ∧
     ((t.nmiPending && t.nmiArmed) || p.firq || p.irq) = true ∧ p.syncShort = false ∧
     q.reset = false ∧ q.halt = false ∧ ((t.nmiPending && t.nmiArmed) || q.firq || q.irq) = true ∧ q.syncShort = true) := by
  decide
theorem witness_halt_holds_the_machine : (let p := { Pins.inactive with halt := true }
    p.reset = false ∧ p.halt = true ∧ Pins.inactive.halt = false ∧ { State.reset with run := .halted }.run = .halted) := by decide
theorem witness_reset_sequence_result : { Pins.inactive with reset := true }.reset = true ∧ Quiet State.reset ∧
    Plain State.reset 0xFFFE ∧ Plain State.reset 0xFFFF := ⟨rfl, rfl, .inl rfl, .inl rfl⟩
theorem witness_only_named_instructions_write_dp :
    (let t := { State.reset with a := 0x12 }
     (after (exec (.tfr .a .dp) t)).dp ≠ t.dp) ∧ ∃ t', exec (.tfr .a .dp) State.reset = .next t' := ⟨by decide, _, rfl⟩
theorem witness_only_wholesale_writers_clear_masks :
    State.reset.flag .i = true ∧ (after (exec (.andcc 0xEF) State.reset)).flag .i = false ∧
    ∃ t', exec (.andcc 0xEF) State.reset = .next t' := ⟨by decide, by decide, _, rfl⟩
/-- A step that keeps NMI armed, and one that arms it. -/
theorem witness_nmi_stays_armed_until_reset :
    (∃ t', stepWithPins Pins.inactive { State.reset with nmiArmed := true } = .next t') ∧ Pins.inactive.reset = false ∧
    State.reset.nmiArmed = false ∧ (ran (start 0x1000 [0x10, 0xCE, 0x20, 0x00] State.reset)).nmiArmed = true :=
  ⟨⟨_, rfl⟩, rfl, rfl, by decide⟩
theorem witness_platform_and_run_state_kept : (∃ t', step State.reset = .next t') ∧
    (∃ t', exec .sync State.reset = .next t' ∧ t'.run ≠ State.reset.run) := ⟨⟨_, rfl⟩, _, rfl, by decide⟩
/-- The last and the first instruction of each list, an indirect form and a direct one, and a state that exec leaves. -/
theorem witness_accesses_move_their_bytes :
    Instr.tst (.dir 0x00) ∈ byteReaders (.dir 0x00) ∧ Instr.lds (.ext 0xFFFF) ∈ wordReaders (.ext 0xFFFF) ∧
    (Acc.b, Instr.stb (.dir 0xFF)) ∈ byteStores (.dir 0xFF) ∧
    (Wide.ptr .s, Instr.sts (.ext 0xFFFF)) ∈ wordStores (.ext 0xFFFF) ∧
    Instr.clr (.dir 0x00) ∈ ByteOp.memInstrs .clr (.dir 0x00) ∧ indexedIndirect (.extInd 0xFFFF) = true ∧
    indexedIndirect (.inc1 .x) = false ∧ ∃ t', exec .rti State.reset = .next t' :=
  ⟨by decide, by decide, by decide, by decide, by decide, rfl, rfl, _, rfl⟩
/-- The pointer register of an operand that is not the destination, in each of the four forms that write one. -/
theorem witness_operand_leaves :
    ptrLoc .x ∈ indexedWrites (.inc1 .x) ∧ ptrLoc .x ∉ ([] : List Loc) ∧ ptrLoc .s ∈ indexedWrites (.inc2 .s true) ∧
    ptrLoc .s ∉ [ptrLoc .x] ∧ ptrLoc .u ∈ indexedWrites (.dec1 .u) ∧ ptrLoc .u ∉ Wide.locs .d ∧
    ptrLoc .y ∈ indexedWrites (.dec2 .y false) ∧ ptrLoc .y ∉ [Loc.s] := by decide

end Sys2Proof.Machine
end

section
/-! PROOFS. The 8-bit sum of 41_accumulator_memory_8bit.md R170: the result and the flags of `addBits` and `halfCarry`. -/

namespace Sys2Proof.Machine

/-! ## The sum and its carries -/

theorem addBits_r_toNat {w : Nat} (a b : BitVec w) (cin : Bool) :
    (addBits a b cin).r.toNat = (a.toNat + b.toNat + cin.toNat) % 2 ^ w :=
  BitVec.toNat_ofNat _ w

theorem addBits_c_iff {w : Nat} (a b : BitVec w) (cin : Bool) :
    (addBits a b cin).c = true ↔ 2 ^ w ≤ a.toNat + b.toNat + cin.toNat := by
  rw [addBits_c, decide_eq_true_iff]

theorem halfCarry_iff (a b : Byte) (cin : Bool) :
    halfCarry a b cin = true ↔ 16 ≤ a.toNat % 16 + b.toNat % 16 + cin.toNat :=
  decide_eq_true_iff

/-- The carry of the sum is the ripple carry of the library out of the top bit. -/
theorem addBits_c_eq_carry {w : Nat} (a b : BitVec w) (cin : Bool) :
    (addBits a b cin).c = BitVec.carry w a b cin :=
  BitVec.carry_width.symm

/-- The top bit of the sum: the full adder of the two top bits and the carry into them. -/
theorem addBits_r_msb {w : Nat} (a b : BitVec (w + 1)) (cin : Bool) :
    (addBits a b cin).r.msb = (a.msb ^^ (b.msb ^^ BitVec.carry w a b cin)) := by
  have hcin : BitVec.ofNat (w + 1) cin.toNat = (BitVec.ofBool cin).setWidth (w + 1) := by
    cases cin <;> simp
  simp only [BitVec.msb_eq_getLsbD_last, Nat.add_sub_cancel, addBits_r, hcin,
    BitVec.getLsbD_add_add_bool (Nat.lt_succ_self w)]

/-! ## The signed overflow -/

/-- V as the rule of signs: operands of one sign and a result of the other. -/
theorem addBits_v_iff_msb {w : Nat} (a b : BitVec w) (cin : Bool) :
    (addBits a b cin).v = true ↔ a.msb = b.msb ∧ (addBits a b cin).r.msb ≠ a.msb := by
  simp only [addBits, Bool.and_eq_true, beq_iff_eq, bne_iff_ne]

/-- V as the carry out of the top bit against the carry into it: the three bits that enter the full adder of the top
bit decide both sides. -/
theorem addBits_v_eq_carries {w : Nat} (a b : BitVec (w + 1)) (cin : Bool) :
    (addBits a b cin).v = ((addBits a b cin).c ^^ BitVec.carry w a b cin) := by
  have hv : (addBits a b cin).v = (a.msb == b.msb && (addBits a b cin).r.msb != a.msb) := rfl
  have hc : (addBits a b cin).c = Bool.atLeastTwo a.msb b.msb (BitVec.carry w a b cin) := by
    rw [addBits_c_eq_carry, BitVec.carry_succ]
    simp only [BitVec.msb_eq_getLsbD_last, Nat.add_sub_cancel]
  rw [hv, hc, addBits_r_msb]
  generalize a.msb = x, b.msb = y, BitVec.carry w a b cin = k
  revert x y k
  decide

/-- Settles O17: each clause is the law of `addBits` or `halfCarry` at width 8. -/
theorem add8SumAndFlags : Obligations.add8_sum_and_flags := by
  unfold Obligations.add8_sum_and_flags
  intro a b cin
  have hmsb : ∀ x : Byte, x.getLsbD 7 = x.msb := fun x => (BitVec.msb_eq_getLsbD_last x).symm
  refine ⟨addBits_r_toNat a b cin, addBits_c_iff a b cin, halfCarry_iff a b cin, ?signs, addBits_v a b cin, ?carries⟩
  case signs => simpa only [hmsb] using addBits_v_iff_msb a b cin
  case carries => exact addBits_v_eq_carries a b cin

end Sys2Proof.Machine
end

section
/-! PROOFS. The interrupt entries of 60_exceptions.md R410 to R412: every frame is one push of an image with E written,
and an entry is that push, the masks and the vector. -/

namespace Sys2Proof.Machine

/-! ## An access does not see CC -/

theorem agentWrite_setCc (t : State) (cc : Byte) (w : AgentWrite) :
    agentWrite (t.setCc cc) w = (agentWrite t w).setCc cc := by
  have hk : (t.setCc cc).kindAt w.1 = t.kindAt w.1 := rfl
  unfold agentWrite
  rw [hk]
  cases t.kindAt w.1 <;> rfl

theorem foldl_agentWrite_setCc (batch : List AgentWrite) (t : State) (cc : Byte) :
    batch.foldl agentWrite (t.setCc cc) = (batch.foldl agentWrite t).setCc cc := by
  induction batch generalizing t with
  | nil => rfl
  | cons w rest ih => rw [List.foldl_cons, List.foldl_cons, agentWrite_setCc, ih]

theorem agentTurn_setCc (t : State) (cc : Byte) : agentTurn (t.setCc cc) = (agentTurn t).setCc cc := by
  unfold agentTurn
  rw [State.setCc_agent]
  rcases t.agent with _ | ⟨_ | ⟨w, rest⟩, later⟩
  · rfl
  · rfl
  · simp only [foldl_agentWrite_setCc]
    rfl

theorem platformWrite_setCc (addr : Word) (v : Byte) (t : State) (cc : Byte) :
    platformWrite addr v (t.setCc cc) = (platformWrite addr v t).setCc cc := by
  have hk : (t.setCc cc).kindAt addr = t.kindAt addr := rfl
  unfold platformWrite
  rw [hk]
  cases t.kindAt addr <;> rfl

theorem writeByte_setCc (addr : Word) (v : Byte) (t : State) (cc : Byte) :
    writeByte addr v (t.setCc cc) = (writeByte addr v t).setCc cc := by
  unfold writeByte
  rw [agentTurn_setCc, platformWrite_setCc]
  rfl

theorem push8_setCc (p : Ptr) (v : Byte) (t : State) (cc : Byte) :
    push8 p v (t.setCc cc) = (push8 p v t).setCc cc := by
  have hptr : (t.setCc cc).ptr p = t.ptr p := by cases p <;> rfl
  have hset : ∀ sp, (t.setCc cc).setPtr p sp = (t.setPtr p sp).setCc cc := fun sp => by cases p <;> rfl
  unfold push8
  rw [hptr, hset, writeByte_setCc]

theorem pushImage_setCc (p : Ptr) (image : List Byte) (t : State) (cc : Byte) :
    pushImage p image (t.setCc cc) = (pushImage p image t).setCc cc := by
  induction image with
  | nil => rfl
  | cons v rest ih => rw [pushImage, ih, push8_setCc, pushImage]

/-! ## What holds of a state holds of one that agrees with it -/

/-- A push is seen from any later state with that pointer and, where no other bus master is at work, those bytes. -/
theorem Pushed.ofTouches {p : Ptr} {image : List Byte} {locs : List Loc} {flags : List Flag} {t t' t'' : State}
    (h : Pushed p image t t') (hp : t''.ptr p = t'.ptr p) (hq : Quiet t → Quiet t')
    (h' : Touches locs flags [] t' t'') : Pushed p image t t'' := by
  obtain ⟨hptr, hbytes⟩ := h
  obtain ⟨-, -, -, -, hmem⟩ := h'
  refine ⟨hp.trans hptr, fun q hc hram => ?_⟩
  rw [hp, State.peekBytes_congr t' t'' _ _ fun b _ => (hmem (hq q)).2 b List.not_mem_nil]
  exact hbytes q hc hram

/-- The vector of an entry is loaded after what the entry did before. -/
theorem AtVector.afterTouches {v : Word} {locs : List Loc} {flags : List Flag} {stores : List Word} {t u t' : State}
    (h : AtVector v u t') (h' : Touches locs flags stores t u) : AtVector v t t' := by
  obtain ⟨hload, hreads, hpc⟩ := h
  obtain ⟨-, -, hplatform, -, hmem⟩ := h'
  have hk : ∀ addr, u.kindAt addr = t.kindAt addr := fun addr => by unfold State.kindAt; rw [hplatform]
  have hplain : ∀ addr, Plain t addr → Plain u addr := fun addr hp => by unfold Plain; rw [hk]; exact hp
  exact ⟨hload, hreads, fun q h₁ h₂ => hpc (hmem q).1 (hplain _ h₁) (hplain _ h₂)⟩

/-! ## An entry that pushes an image -/

/-- E written, the image pushed on the hardware stack, the masks set and PC loaded: the entry of a frame that is
pushed (60_exceptions.md R409 to R414). -/
def enterWithImage (e setI setF : Bool) (v : Word) (image : List Byte) (t : State) : State :=
  loadVector v (setMasks setI setF (pushImage .s image (t.setFlag .e e)))

/-- The entry that stacks the entire state. -/
theorem takeException_entire_eq (setI setF : Bool) (v : Word) (t : State) :
    takeException .entire setI setF v t =
      enterWithImage true setI setF v (entireImage (writeFlag t.cc .e true) t) t :=
  takeException_entire setI setF v t

/-- The subset is one image too: E may be cleared before PC is pushed, for a push does not see CC. -/
theorem stackSubset_eq (t : State) :
    stackSubset t = pushImage .s (writeFlag t.cc .e false :: wordBytes t.pc) (t.setFlag .e false) := by
  have hcc : (push16 .s t.pc t).setFlag .e false = pushImage .s (wordBytes t.pc) (t.setFlag .e false) := by
    simp only [State.setFlag, pushImage_setCc, push16_cc]
    rfl
  unfold stackSubset
  simp only [hcc, pushImage, pushImage_cc]
  rfl

/-- The entry that stacks PC and CC. -/
theorem takeException_subset_eq (setI setF : Bool) (v : Word) (t : State) :
    takeException .subset setI setF v t =
      enterWithImage false setI setF v (writeFlag t.cc .e false :: wordBytes t.pc) t := by
  simp only [takeException, pushFrame, stackSubset_eq, enterWithImage]

theorem touches_pushFromFlag (e : Bool) (image : List Byte) (t : State) :
    Touches [.s] [.e] (below t.s image.length) t (pushImage .s image (t.setFlag .e e)) :=
  (touches_setFlag t .e e).trans (touches_pushImage .s image _)

theorem touches_masksAndVector (setI setF : Bool) (v : Word) (t : State) :
    Touches [.pc] [.i, .f] [] t (loadVector v (setMasks setI setF t)) :=
  (touches_setMasks setI setF t).trans (touches_loadVector v _)

theorem pushed_enterWithImage (e setI setF : Bool) (v : Word) (image : List Byte) (t : State)
    (hn : image.length ≤ 65536) : Pushed .s image t (enterWithImage e setI setF v image t) := by
  have hpush : Pushed .s image t (pushImage .s image (t.setFlag .e e)) := pushed_pushImage .s image (t.setFlag .e e) hn
  obtain ⟨-, -, -, -, hquiet⟩ := touches_pushFromFlag e image t
  have hrest := touches_masksAndVector setI setF v (pushImage .s image (t.setFlag .e e))
  have hs := hrest.1 .s (by decide)
  exact hpush.ofTouches (BitVec.eq_of_toNat_eq hs) (fun q => (hquiet q).1) hrest

theorem atVector_enterWithImage (e setI setF : Bool) (v : Word) (image : List Byte) (t : State) :
    AtVector v t (enterWithImage e setI setF v image t) :=
  (loadVector_pc v _).afterTouches ((touches_pushFromFlag e image t).trans (touches_setMasks setI setF _))

theorem enterWithImage_flag (e setI setF : Bool) (v : Word) (image : List Byte) (t : State) (k : Flag) :
    (enterWithImage e setI setF v image t).flag k =
      if k = .i then t.flag .i || setI else if k = .f then t.flag .f || setF else if k = .e then e else t.flag k := by
  have hload : (enterWithImage e setI setF v image t).flag k =
      (setMasks setI setF (pushImage .s image (t.setFlag .e e))).flag k :=
    (touches_loadVector v _).2.1 k List.not_mem_nil
  have hpush : ∀ j, (pushImage .s image (t.setFlag .e e)).flag j = (t.setFlag .e e).flag j := fun j =>
    (touches_pushImage .s image _).2.1 j List.not_mem_nil
  rw [hload, setMasks_flag]
  cases k <;> simp [hpush]

/-- The entry that SWI, SWI2, SWI3, NMI and IRQ share. -/
theorem entersEntire_takeException (setI setF : Bool) (v : Word) (t : State) :
    EntersEntire v setI setF [] t (takeException .entire setI setF v t) := by
  have htouches := touches_takeException_entire setI setF v t
  rw [takeException_entire_eq] at htouches ⊢
  refine ⟨pushed_enterWithImage _ _ _ _ _ _ (by simp [entireImage, wordBytes]), atVector_enterWithImage _ _ _ _ _ _,
    ?_, ?_, ?_, htouches⟩ <;> rw [enterWithImage_flag] <;> rfl

/-! ## Which request a running machine takes -/

theorem recognised_nmi (p : Pins) (t : State) (hpending : t.nmiPending = true) (harmed : t.nmiArmed = true) :
    recognised p t = some .nmi := by
  simp [recognised, nmiRequested, hpending, harmed]

theorem recognised_firq (p : Pins) (t : State) (hnmi : (t.nmiPending && t.nmiArmed) = false) (hline : p.firq = true)
    (hmask : t.flag .f = false) : recognised p t = some .firq := by
  simp [recognised, nmiRequested, firqRequested, hnmi, hline, hmask]

theorem recognised_irq (p : Pins) (t : State) (hnmi : (t.nmiPending && t.nmiArmed) = false)
    (hfirq : (p.firq && !t.flag .f) = false) (hline : p.irq = true) (hmask : t.flag .i = false) :
    recognised p t = some .irq := by
  simp [recognised, nmiRequested, firqRequested, irqRequested, hnmi, hfirq, hline, hmask]

/-- A running machine enters the request it recognises (00_scope.md R11 case 5). -/
theorem stepWithPins_of_recognised (p : Pins) (t : State) (q : Request) (hreset : p.reset = false)
    (hhalt : p.halt = false) (hrun : t.run = .running) (hq : recognised p t = some q) :
    stepWithPins p t = .next (enterInterrupt q t) := by
  simp [stepWithPins, runBoundary, hreset, hhalt, hrun, hq]

/-! ## The entries -/

/-- Settles O49: the entry from the state whose pending latch is already clear. -/
theorem nmiEntry : Obligations.nmi_entry := by
  unfold Obligations.nmi_entry
  intro p t hreset hhalt hrun hpending harmed
  have hq := recognised_nmi p t hpending harmed
  refine ⟨_, stepWithPins_of_recognised p t .nmi hreset hhalt hrun hq, ?_⟩
  obtain ⟨hpushed, hvector, he, hi, hf, htouches⟩ :=
    entersEntire_takeException true true vectorNmi (t.setNmiPending false)
  refine ⟨?cleared, hpushed, hvector, he, hi, hf, ?frame⟩
  case cleared => exact Bool.toNat_eq_zero.mp (htouches.1 .nmiPending (by decide))
  case frame =>
    exact ((touches_setNmiPending t false).trans htouches).mono (by simp) (by simp) (fun _ m => m)

/-- Settles O50: the entry whose image is CC with E clear and PC. -/
theorem firqEntry : Obligations.firq_entry := by
  unfold Obligations.firq_entry
  intro p t hreset hhalt hrun hnmi hline hmask
  have hq := recognised_firq p t hnmi hline hmask
  refine ⟨_, stepWithPins_of_recognised p t .firq hreset hhalt hrun hq, ?_⟩
  have htouches := touches_takeException_subset true true vectorFirq t
  have hentry : enterInterrupt .firq t = takeException .subset true true vectorFirq t := rfl
  rw [hentry]
  rw [takeException_subset_eq] at htouches ⊢
  refine ⟨pushed_enterWithImage _ _ _ _ _ _ (by simp [wordBytes]), atVector_enterWithImage _ _ _ _ _ _,
    ?_, ?_, ?_, htouches⟩ <;> simp [enterWithImage_flag]

/-- Settles O51: the shared entry of the entire state, with the I mask alone. -/
theorem irqEntry : Obligations.irq_entry := by
  unfold Obligations.irq_entry
  intro p t hreset hhalt hrun hnmi hfirq hline hmask
  have hq := recognised_irq p t hnmi hfirq hline hmask
  exact ⟨_, stepWithPins_of_recognised p t .irq hreset hhalt hrun hq, entersEntire_takeException true false vectorIrq t⟩

end Sys2Proof.Machine
end

section
/-! PROOFS. Completion of every defined instruction (60_exceptions.md R401). -/

namespace Sys2Proof.Machine

/-- Registers of one size are transferred (44_stack_transfer.md R297). -/
theorem execTfr_of_sameSize (p q : Reg) (t : State) (h : p.sameSize q = true) :
    execTfr p q t = .next (writeReg q (readReg p t) t) :=
  if_pos h

/-- Registers of one size are exchanged (44_stack_transfer.md R298). -/
theorem execExg_of_sameSize (p q : Reg) (t : State) (h : p.sameSize q = true) :
    execExg p q t = .next (writeReg q (readReg p t) (writeReg p (readReg q t) t)) :=
  if_pos h

/-- Settles O13: TFR and EXG alone can fault, and they complete on registers of one size, which is what well-formedness
asks of them; the meaning of every other instruction is a next state. -/
theorem everyInstructionCompletes : Obligations.every_instruction_completes := by
  unfold Obligations.every_instruction_completes
  intro i t hwf
  cases i with
  | tfr p q => exact ⟨_, execTfr_of_sameSize p q t hwf⟩
  | exg p q => exact ⟨_, execExg_of_sameSize p q t hwf⟩
  | _ => exact ⟨_, rfl⟩

end Sys2Proof.Machine
end

section
/-! PROOFS. Reset, memory and the stack primitives (10_state.md R45, 20_memory.md R61 to R82). -/

namespace Sys2Proof.Machine

/-! ## The state after reset -/

/-- Settles O1: the reset state is written out, and an empty memory reads as zero at the vector. -/
theorem resetStateValues : Obligations.reset_state_values :=
  ⟨rfl, rfl, rfl, rfl, rfl, rfl, rfl⟩

/-- Settles O2: nothing is listed. -/
theorem resetMemoryCanonical : Obligations.reset_memory_canonical :=
  rfl

/-! ## Bytes and words in RAM -/

theorem Ram.plain {t : State} {addr : Word} (h : Ram t addr) : Plain t addr := Or.inl h

/-- Two addresses that differ by one. -/
theorem ne_add_one (addr : Word) : addr ≠ addr + 1 := by
  bv_omega

theorem storedByte_of_ram {t : State} {addr : Word} (h : Ram t addr) (v : Byte) : storedByte t addr v = v :=
  if_pos h

/-- A write to RAM is there at once. -/
theorem writeByte_peek_of_ram (addr : Word) (v : Byte) (t : State) (q : Quiet t) (h : Canonical t) (hram : Ram t addr) :
    (writeByte addr v t).peek addr = v := by
  rw [writeByte_peek addr v t q h, storedByte_of_ram hram]

/-- What kind of unit stands at an address is given by the platform. -/
theorem Plain.of_platform {t t' : State} {addr : Word} (h : Plain t addr) (e : t'.platform = t.platform) :
    Plain t' addr := by
  have hk : t'.kindAt addr = t.kindAt addr := by unfold State.kindAt; rw [e]
  unfold Plain
  rw [hk]
  exact h

theorem writeByte_plain {t : State} {b : Word} (addr : Word) (v : Byte) (h : Plain t b) :
    Plain (writeByte addr v t) b :=
  h.of_platform (writeByte_platform _ _ _)

theorem writeWord_plain {t : State} {b : Word} (addr v : Word) (h : Plain t b) : Plain (writeWord addr v t) b :=
  h.of_platform (writeWord_platform _ _ _)

/-- Settles O4: with no other bus master a read of plain memory is a peek, and a write changes one byte. -/
theorem readReturnsLastWrite : Obligations.read_returns_last_write := by
  unfold Obligations.read_returns_last_write
  intro t addr v q hc hram
  obtain ⟨q', hother⟩ := writeByte_quiet addr v t q
  refine ⟨?same, fun b hb hplain => ?other⟩
  case same =>
    rw [readByte_plain addr _ q' (writeByte_plain addr v hram.plain)]
    exact writeByte_peek_of_ram addr v t q hc hram
  case other =>
    rw [readByte_plain b _ q' (writeByte_plain addr v hplain), readByte_plain b t q hplain]
    exact hother b hb

theorem highByte_toNat (v : Word) : (highByte v).toNat = v.toNat / 256 := by
  have h := joinBytes_toNat (highByte v) (lowByte v)
  have hl := (lowByte v).isLt
  rw [joinBytes_highByte_lowByte] at h
  omega

theorem lowByte_toNat (v : Word) : (lowByte v).toNat = v.toNat % 256 := by
  have h := joinBytes_toNat (highByte v) (lowByte v)
  have hl := (lowByte v).isLt
  rw [joinBytes_highByte_lowByte] at h
  omega

/-- Settles O5: the two bytes of the word stand at the address and at the next. -/
theorem wordStoreIsBigEndian : Obligations.word_store_is_big_endian := by
  unfold Obligations.word_store_is_big_endian
  intro t addr v q hc hram hram' t'
  obtain ⟨q', hother⟩ := writeWord_quiet addr v t q
  obtain ⟨hhigh, hlow⟩ := writeWord_peek addr v t q hc
  rw [storedByte_of_ram hram] at hhigh
  rw [storedByte_of_ram hram'] at hlow
  refine ⟨?_, ?_, ?_, hother⟩
  · rw [hhigh, highByte_toNat]
  · rw [hlow, lowByte_toNat]
  · rw [readWord_plain addr t' q' (writeWord_plain addr v hram.plain) (writeWord_plain addr v hram'.plain), hhigh, hlow,
      joinBytes_highByte_lowByte]

/-! ## Push and pull -/

theorem push8_peek (p : Ptr) (v : Byte) (t : State) (q : Quiet t) (h : Canonical t) (hram : Ram t (t.ptr p - 1)) :
    (push8 p v t).peek (t.ptr p - 1) = v :=
  writeByte_peek_of_ram _ v _ (by simpa [Quiet] using q) (by simpa [Canonical] using h) (by simpa [Ram] using hram)

/-- A pull takes back the byte at the pointer and changes no memory. -/
theorem pull8_of_peek (p : Ptr) (t : State) (q : Quiet t) (hplain : Plain t (t.ptr p)) :
    (pull8 p t).1 = t.peek (t.ptr p) ∧ (pull8 p t).2.ptr p = t.ptr p + 1 ∧ (pull8 p t).2.mem = t.mem :=
  ⟨by rw [pull8_plain p t q hplain], by rw [pull8_ptr, if_pos rfl], (pull8_quiet p t q).1⟩

theorem pull16_of_peek (p : Ptr) (t : State) (q : Quiet t) (hplain : Plain t (t.ptr p)) (hplain' : Plain t (t.ptr p + 1)) :
    (pull16 p t).1 = t.peekWord (t.ptr p) ∧ (pull16 p t).2.ptr p = t.ptr p + 2 ∧ (pull16 p t).2.mem = t.mem :=
  ⟨by rw [pull16_plain p t q hplain hplain'], by rw [pull16_ptr, if_pos rfl], (pull16_quiet p t q).1⟩

theorem push16_plain {t : State} {b : Word} (p : Ptr) (v : Word) (h : Plain t b) : Plain (push16 p v t) b :=
  h.of_platform (push16_platform _ _ _)

/-- A word pushed lies high byte first from the new pointer up. -/
theorem push16_peek (p : Ptr) (v : Word) (t : State) (q : Quiet t) (h : Canonical t) (hram : Ram t (t.ptr p - 1))
    (hram' : Ram t (t.ptr p - 2)) :
    (push16 p v t).peek (t.ptr p - 1) = lowByte v ∧ (push16 p v t).peek (t.ptr p - 2) = highByte v := by
  have q' : Quiet (push8 p (lowByte v) t) := (push8_quiet p _ t q).1
  have hptr : (push8 p (lowByte v) t).ptr p = t.ptr p - 1 := by rw [push8_ptr, if_pos rfl]
  have htop : (push8 p (lowByte v) t).ptr p - 1 = t.ptr p - 2 := by rw [hptr]; bv_omega
  have hne : t.ptr p - 1 ≠ t.ptr p - 2 := by bv_omega
  refine ⟨?low, ?high⟩
  case low =>
    have hkeep := (push8_quiet p (highByte v) _ q').2 (t.ptr p - 1) (by rw [htop]; exact hne)
    exact hkeep.trans (push8_peek p _ t q h hram)
  case high =>
    rw [← htop]
    exact push8_peek p _ _ q' (push8_wf p _ t h) (by rw [htop]; simpa [Ram] using hram')

/-- Settles O34: the bytes pushed stand below the old pointer, and a pull reads them where the pointer is. -/
theorem pushAndPullPrimitives : Obligations.push_and_pull_primitives := by
  unfold Obligations.push_and_pull_primitives
  intro p t q hc hram hram'
  refine ⟨fun v => ?byte, fun v => ?word⟩
  case byte =>
    have hptr : (push8 p v t).ptr p = t.ptr p - 1 := by rw [push8_ptr, if_pos rfl]
    have hplain : Plain (push8 p v t) ((push8 p v t).ptr p) := by
      rw [hptr]
      exact hram.plain.of_platform (push8_platform _ _ _)
    obtain ⟨hv, hup, hmem⟩ := pull8_of_peek p _ (push8_quiet p v t q).1 hplain
    have hpeek := push8_peek p v t q hc hram
    refine ⟨hptr, hpeek, ?_, ?_, hmem⟩
    · rw [hv, hptr, hpeek]
    · rw [hup, hptr]; bv_omega
  case word =>
    have hptr : (push16 p v t).ptr p = t.ptr p - 2 := by rw [push16_ptr, if_pos rfl]
    have hnext : (push16 p v t).ptr p + 1 = t.ptr p - 1 := by rw [hptr]; bv_omega
    have hplain : Plain (push16 p v t) ((push16 p v t).ptr p) := by
      rw [hptr]
      exact push16_plain p v hram'.plain
    have hplain' : Plain (push16 p v t) ((push16 p v t).ptr p + 1) := by
      rw [hnext]
      exact push16_plain p v hram.plain
    obtain ⟨hv, hup, hmem⟩ := pull16_of_peek p _ (push16_quiet p v t q).1 hplain hplain'
    obtain ⟨hlow, hhigh⟩ := push16_peek p v t q hc hram hram'
    refine ⟨hptr, hlow, hhigh, ?_, ?_, hmem⟩
    · rw [hv, State.peekWord, hnext, hptr, hlow, hhigh, joinBytes_highByte_lowByte]
    · rw [hup, hptr]; bv_omega

end Sys2Proof.Machine
end

section
/-! PROOFS. What the operand forms compute (40_addressing_modes.md R130 to R157). -/

namespace Sys2Proof.Machine

/-! ## The address before indirection -/

/-- A signed offset of at most 16 bits added modulo 2^16, as a number. -/
theorem add_signExtend_toNat {w : Nat} (base : Word) (off : BitVec w) (hw : w ≤ 16) :
    ((base + off.signExtend 16).toNat : Int) = (base.toNat + off.toInt) % 65536 := by
  have hint : (off.signExtend 16).toInt = off.toInt := BitVec.toInt_signExtend_of_le hw
  have hbmod := BitVec.toInt_eq_toNat_bmod (off.signExtend 16)
  have hlt := (off.signExtend 16).isLt
  rw [hint, Int.bmod_def] at hbmod
  rw [BitVec.toNat_add]
  split at hbmod <;> omega

theorem add_word_toNat (base off : Word) : ((base + off).toNat : Int) = (base.toNat + off.toInt) % 65536 := by
  have h := add_signExtend_toNat base off (Nat.le_refl 16)
  rwa [BitVec.signExtend_eq] at h

/-- A small step down modulo 2^16, as a number. -/
theorem sub_word_toNat (base k : Word) : ((base - k).toNat : Int) = (base.toNat - k.toNat) % 65536 := by
  have hb := base.isLt
  have hk := k.isLt
  rw [BitVec.toNat_sub]
  omega

theorem State.d_toNat (t : State) : t.d.toNat = 256 * t.a.toNat + t.b.toNat :=
  joinBytes_toNat t.a t.b

/-- Settles O14: each form is its base register, or PC, with its offset added. -/
theorem indexedAddressIsSignedSum : Obligations.indexed_address_is_signed_sum := by
  unfold Obligations.indexed_address_is_signed_sum
  intro t r ind
  refine ⟨fun n => add_signExtend_toNat _ n (by decide), fun n => addOffset8_toNat _ n, fun n => add_word_toNat _ n,
    addOffset8_toNat _ _, addOffset8_toNat _ _, ?accD, fun _ n => addOffset8_toNat _ n, fun _ n => add_word_toNat _ n,
    ⟨rfl, rfl, rfl⟩, sub_word_toNat _ 1, sub_word_toNat _ 2, fun _ => rfl⟩
  case accD =>
    have hsum : (indexedBase (.accD r ind) t).toNat = ((t.ptr r).toNat + t.d.toNat) % 65536 := BitVec.toNat_add _ _
    rw [hsum, State.d_toNat]

/-! ## The pointer register -/

theorem State.look_ptrLoc (t : State) (r : Ptr) : t.look (ptrLoc r) = (t.ptr r).toNat := by
  cases r <;> rfl

/-- A pointer register that is not listed is kept. -/
theorem Touches.ptr {locs : List Loc} {flags : List Flag} {stores : List Word} {t t' : State}
    (h : Touches locs flags stores t t') (r : Ptr) (n : ptrLoc r ∉ locs) : t'.ptr r = t.ptr r := by
  have hlook := h.1 (ptrLoc r) n
  rw [State.look_ptrLoc, State.look_ptrLoc] at hlook
  exact BitVec.eq_of_toNat_eq hlook

/-- The indirection leaves the pointer register as the update does. -/
theorem indexedEA_ptr (i : Indexed) (t : State) (r : Ptr) : (indexedEA i t).2.ptr r = (indexedUpdate i t).ptr r :=
  (indexedEA_registers i t).ptr r List.not_mem_nil

/-- Settles O15: the update writes the pointer register, and the indirection no register. -/
theorem indexedAddressUpdatesPointer : Obligations.indexed_address_updates_pointer := by
  unfold Obligations.indexed_address_updates_pointer
  refine ⟨fun t r ind => ?_, touches_indexedEA⟩
  simp only [indexedEA_ptr, indexedUpdate, State.ptr_setPtr, if_true]
  refine ⟨BitVec.toNat_add _ _, BitVec.toNat_add _ _, ?_, ?_⟩ <;> bv_omega

/-! ## What an operand form reads -/

/-- With no other bus master the address phase changes no memory. -/
theorem indexedEA_quiet (i : Indexed) (t : State) (q : Quiet t) :
    Quiet (indexedEA i t).2 ∧ ∀ addr, (indexedEA i t).2.peek addr = t.peek addr := by
  obtain ⟨-, -, -, -, hmem⟩ := touches_indexedEA i t
  exact ⟨(hmem q).1, fun addr => (hmem q).2 addr List.not_mem_nil⟩

theorem indexedEA_plain {i : Indexed} {t : State} {addr : Word} (h : Plain t addr) : Plain (indexedEA i t).2 addr := by
  obtain ⟨-, -, hplatform, -, -⟩ := touches_indexedEA i t
  exact h.of_platform hplatform

theorem readByte_eq_peek (addr : Word) (t : State) (q : Quiet t) (h : Plain t addr) :
    (readByte addr t).1 = t.peek addr := by
  rw [readByte_plain addr t q h]

theorem readWord_eq_peekWord (addr : Word) (t : State) (q : Quiet t) (h : Plain t addr) (h' : Plain t (addr + 1)) :
    (readWord addr t).1 = t.peekWord addr := by
  rw [readWord_plain addr t q h h', State.peekWord]

/-- The direct address is the page in DP and the offset. -/
theorem directEA_of_toNat (lo : Byte) (t : State) (ea : Word) (h : ea.toNat = 256 * t.dp.toNat + lo.toNat) :
    directEA lo t = ea := by
  apply BitVec.eq_of_toNat_eq
  rw [directEA, joinBytes_toNat, h]

/-- The word an indirect form reads its address from is in memory as the form found it. -/
theorem indexedEA_of_indirect (i : Indexed) (t : State) (q : Quiet t) (hi : indexedIndirect i = true)
    (h : Plain t (indexedBase i t)) (h' : Plain t (indexedBase i t + 1)) :
    (indexedEA i t).1 = t.peekWord (indexedBase i t) := by
  obtain ⟨-, -, hplatform, -, hmem⟩ := touches_indexedUpdate i t
  rw [indexedEA_indirect i t hi,
    readWord_eq_peekWord _ _ (hmem q).1 (h.of_platform hplatform) (h'.of_platform hplatform)]
  simp only [State.peekWord, (hmem q).2 _ List.not_mem_nil]

/-- Settles O16: every form reads plain memory at its address, which the address phase has not changed. -/
theorem operandsReadTheirAddress : Obligations.operands_read_their_address := by
  unfold Obligations.operands_read_their_address
  intro t q
  refine ⟨fun _ => rfl, fun _ => rfl, fun lo ea hea h => ?direct, fun ea h => ?extended, fun i h => ?indexed,
    fun i hi => ?base, fun i hi h h' => indexedEA_of_indirect i t q hi h h'⟩
  case direct =>
    have e := directEA_of_toNat lo t ea hea
    simp only [operand8, memEA, operand16, e]
    exact ⟨readByte_eq_peek ea t q h, trivial, fun h' => readWord_eq_peekWord ea t q h h'⟩
  case extended =>
    exact ⟨readByte_eq_peek ea t q h, rfl, fun h' => readWord_eq_peekWord ea t q h h'⟩
  case indexed =>
    obtain ⟨q', hpeek⟩ := indexedEA_quiet i t q
    refine ⟨(readByte_eq_peek _ _ q' (indexedEA_plain h)).trans (hpeek _), rfl, fun h' => ?_⟩
    have hword : (operand16 (.idx i) t).1 = (indexedEA i t).2.peekWord (indexedEA i t).1 :=
      readWord_eq_peekWord _ _ q' (indexedEA_plain h) (indexedEA_plain h')
    rw [hword, State.peekWord, hpeek, hpeek, State.peekWord]
  case base => rw [indexedEA_direct i t hi]

end Sys2Proof.Machine
end

section
/-! PROOFS. The decoder and the encoder (30_encoding.md R90 to R112): every opcode opens the shape of its format, and
every entry of the opcode maps is the entry of the encoder. -/

namespace Sys2Proof

open Sys2Proof.Machine

/-- Settles O8: the decoder runs on each word. -/
theorem sampleWordsDecode : Obligations.sample_words_decode := by
  unfold Obligations.sample_words_decode
  decide

/-! ## From an instruction to its bytes and back -/

/-- After these opcode bytes the decoder goes on with the operand bytes of the shape. -/
def Opens (op : List Byte) (sh : Shape) : Prop := ∀ rest, decode (op ++ rest) = sh.parse rest

theorem decode_encodeSrc8 {i d x e : List Byte} {k : Src8 → Instr} (himm : Opens i (.imm8 fun v => k (.imm v)))
    (hdir : Opens d (.dir fun v => k (.dir v))) (hidx : Opens x (.idx fun v => k (.idx v)))
    (hext : Opens e (.ext fun v => k (.ext v))) (o : Src8) (rest : List Byte) :
    decode (encodeSrc8 i d x e o ++ rest) = .done (k o) rest := by
  cases o with
  | imm v => rw [encodeSrc8, List.append_assoc, himm]; rfl
  | dir v => rw [encodeSrc8, List.append_assoc, hdir]; rfl
  | idx v => rw [encodeSrc8, List.append_assoc, hidx]; exact takeIndexed_encode _ v rest
  | ext v => rw [encodeSrc8, List.append_assoc, hext]; exact takeWord_wordBytes (fun v => k (.ext v)) v rest

theorem decode_encodeSrc16 {i d x e : List Byte} {k : Src16 → Instr} (himm : Opens i (.imm16 fun v => k (.imm v)))
    (hdir : Opens d (.dir fun v => k (.dir v))) (hidx : Opens x (.idx fun v => k (.idx v)))
    (hext : Opens e (.ext fun v => k (.ext v))) (o : Src16) (rest : List Byte) :
    decode (encodeSrc16 i d x e o ++ rest) = .done (k o) rest := by
  cases o with
  | imm v => rw [encodeSrc16, List.append_assoc, himm]; exact takeWord_wordBytes (fun v => k (.imm v)) v rest
  | dir v => rw [encodeSrc16, List.append_assoc, hdir]; rfl
  | idx v => rw [encodeSrc16, List.append_assoc, hidx]; exact takeIndexed_encode _ v rest
  | ext v => rw [encodeSrc16, List.append_assoc, hext]; exact takeWord_wordBytes (fun v => k (.ext v)) v rest

theorem decode_encodeMem {d x e : List Byte} {k : Mem → Instr} (hdir : Opens d (.dir fun v => k (.dir v)))
    (hidx : Opens x (.idx fun v => k (.idx v))) (hext : Opens e (.ext fun v => k (.ext v))) (m : Mem)
    (rest : List Byte) : decode (encodeMem d x e m ++ rest) = .done (k m) rest := by
  cases m with
  | dir v => rw [encodeMem, List.append_assoc, hdir]; rfl
  | idx v => rw [encodeMem, List.append_assoc, hidx]; exact takeIndexed_encode _ v rest
  | ext v => rw [encodeMem, List.append_assoc, hext]; exact takeWord_wordBytes (fun v => k (.ext v)) v rest

theorem decode_indexed {op : List Byte} {k : Indexed → Instr} (h : Opens op (.idx k)) (i : Indexed) (rest : List Byte) :
    decode (op ++ encodeIndexed i ++ rest) = .done (k i) rest := by
  rw [List.append_assoc, h]
  exact takeIndexed_encode k i rest

theorem decode_word {op : List Byte} {k : Word → Instr} (h : Opens op (.rel16 k)) (v : Word) (rest : List Byte) :
    decode (op ++ wordBytes v ++ rest) = .done (k v) rest := by
  rw [List.append_assoc, h]
  exact takeWord_wordBytes k v rest

theorem decode_pair {op : List Byte} {k : Reg → Reg → Instr} (h : Opens op (.regpair k)) (p q : Reg)
    (hsize : p.sameSize q = true) (rest : List Byte) : decode (op ++ [pairByte p q] ++ rest) = .done (k p q) rest := by
  rw [List.append_assoc, h]
  exact takePair_encode k p q rest hsize

/-- Settles O6: by the operand form; an instruction without operand bytes, or with one, is decoded by computation. -/
theorem decodeOfEncode : Obligations.decode_of_encode := by
  unfold Obligations.decode_of_encode
  intro i rest hwf
  cases i with
  | adca o | adcb o | adda o | addb o | anda o | andb o | bita o | bitb o | cmpa o | cmpb o | eora o | eorb o | lda o
  | ldb o | ora o | orb o | sbca o | sbcb o | suba o | subb o =>
    exact decode_encodeSrc8 (fun _ => rfl) (fun _ => rfl) (fun _ => rfl) (fun _ => rfl) o rest
  | addd o | subd o | cmpd o | cmpx o | cmpy o | cmpu o | cmps o | ldd o | ldx o | ldy o | ldu o | lds o =>
    exact decode_encodeSrc16 (fun _ => rfl) (fun _ => rfl) (fun _ => rfl) (fun _ => rfl) o rest
  | sta m | stb m | asl m | asr m | clr m | com m | dec m | inc m | lsl m | lsr m | neg m | rol m | ror m | tst m | std m
  | stx m | sty m | stu m | sts m | jmp m | jsr m =>
    exact decode_encodeMem (fun _ => rfl) (fun _ => rfl) (fun _ => rfl) m rest
  | leax i | leay i | leas i | leau i => exact decode_indexed (fun _ => rfl) i rest
  | lbra v | lbrn v | lbhi v | lbls v | lbcc v | lbhs v | lbcs v | lblo v | lbne v | lbeq v | lbvc v | lbvs v | lbpl v
  | lbmi v | lbge v | lblt v | lbgt v | lble v | lbsr v => exact decode_word (fun _ => rfl) v rest
  | tfr p q | exg p q => exact decode_pair (fun _ => rfl) p q hwf rest
  | _ => rfl

/-! ## From bytes to an instruction and back -/

/-- The opcode bytes are those of the instructions of the shape, which are well formed and no aliases. -/
def EncodesAs (op : List Byte) : Shape → Prop
  | .inh i => encode i = op ∧ i.wellFormed = true ∧ i.canonical = i
  | .imm8 k | .dir k | .rel8 k | .stk k =>
    ∀ v, encode (k v) = op ++ [v] ∧ (k v).wellFormed = true ∧ (k v).canonical = k v
  | .imm16 k | .ext k | .rel16 k =>
    ∀ v, encode (k v) = op ++ wordBytes v ∧ (k v).wellFormed = true ∧ (k v).canonical = k v
  | .idx k => ∀ v, encode (k v) = op ++ encodeIndexed v ∧ (k v).wellFormed = true ∧ (k v).canonical = k v
  | .regpair k => ∀ p q, encode (k p q) = op ++ [pairByte p q] ∧ ((k p q).wellFormed = p.sameSize q) ∧
      (k p q).canonical = k p q

theorem takeByte_done {k : Byte → Instr} {l rest : List Byte} {i : Instr} (h : takeByte k l = .done i rest) :
    ∃ v, l = v :: rest ∧ i = k v := by
  cases l with
  | nil => simp [takeByte] at h
  | cons v l =>
    simp only [takeByte, Parse.done.injEq] at h
    exact ⟨v, by rw [h.2], h.1.symm⟩

theorem takeWord_done {k : Word → Instr} {l rest : List Byte} {i : Instr} (h : takeWord k l = .done i rest) :
    ∃ v, l = wordBytes v ++ rest ∧ i = k v := by
  match l with
  | [] | [_] => simp [takeWord] at h
  | b :: c :: l =>
    simp only [takeWord, Parse.done.injEq] at h
    exact ⟨joinBytes b c, by simp [wordBytes, h.2], h.1.symm⟩

theorem takePair_done {k : Reg → Reg → Instr} {l rest : List Byte} {i : Instr} (h : takePair k l = .done i rest) :
    ∃ p q, p.sameSize q = true ∧ l = pairByte p q :: rest ∧ i = k p q := by
  cases l with
  | nil => simp [takePair] at h
  | cons pb l =>
    have hcode : ∀ (c : BitVec 4) (r : Reg), Reg.ofCode c = some r → r.code = c := by decide
    have hjoin : ∀ pb : Byte, (pb.extractLsb' 4 4 ++ pb.extractLsb' 0 4 : BitVec (4 + 4)) = pb := by decide
    simp only [takePair] at h
    split at h
    · rename_i p q hp hq
      split at h
      · rename_i hsize
        simp only [Parse.done.injEq] at h
        refine ⟨p, q, hsize, ?_, h.1.symm⟩
        rw [h.2, pairByte, hcode _ _ hp, hcode _ _ hq, hjoin]
      · simp at h
    · simp at h

/-- The postbyte of a form is the postbyte that has the form. -/
def ShapeEncodes (pb : Byte) : IndexedShape → Prop
  | .none i => encodeIndexed i = [pb]
  | .byte k => ∀ n, encodeIndexed (k n) = [pb, n]
  | .word k => ∀ n, encodeIndexed (k n) = pb :: wordBytes n

theorem toBits_ofBits : ∀ rr : BitVec 2, (Ptr.ofBits rr).toBits = rr := by decide

/-- A postbyte is put together from its fields (R97). -/
theorem postbyte_of_fields : ∀ pb : Byte,
    (pb.getLsbD 7 = false → (0#1 ++ pb.extractLsb' 5 2 ++ pb.extractLsb' 0 5 : BitVec (1 + 2 + 5)) = pb) ∧
    (pb.getLsbD 7 = true → postbyte (pb.extractLsb' 5 2) (pb.getLsbD 4) (pb.extractLsb' 0 4) = pb) := by decide

theorem indexedShape_encodes {pb : Byte} {sh : IndexedShape} (h : indexedShape pb = some sh) : ShapeEncodes pb sh := by
  obtain ⟨hlow, hhigh⟩ := postbyte_of_fields pb
  unfold indexedShape at h
  simp only at h
  split at h
  · rename_i h7
    cases h
    simp [ShapeEncodes, encodeIndexed, toBits_ofBits, hlow h7]
  · rename_i h7
    have hpb := hhigh (by simpa using h7)
    generalize hm : pb.extractLsb' 0 4 = mode at h hpb
    generalize hi : pb.getLsbD 4 = ind at h hpb
    have hmode : ∀ k : Nat, mode.toNat = k → mode = BitVec.ofNat 4 k := by rintro _ rfl; simp
    split at h
    case h_14 => cases h
    case h_13 =>
      split at h
      · rename_i he
        cases h
        rw [he]
        exact fun _ => rfl
      · cases h
    case h_1 hk | h_3 hk =>
      obtain rfl := hmode _ hk
      cases ind with
      | false =>
        cases h
        simp [ShapeEncodes, encodeIndexed, toBits_ofBits, hpb]
      | true => cases h
    all_goals
      rename_i hk
      obtain rfl := hmode _ hk
      cases h
      simp [ShapeEncodes, encodeIndexed, toBits_ofBits, hpb]

theorem takeIndexed_done {k : Indexed → Instr} {l rest : List Byte} {i : Instr} (h : takeIndexed k l = .done i rest) :
    ∃ v, l = encodeIndexed v ++ rest ∧ i = k v := by
  cases l with
  | nil => simp [takeIndexed] at h
  | cons pb l =>
    simp only [takeIndexed] at h
    split at h
    · cases h
    all_goals
      rename_i hsh
      have henc := indexedShape_encodes hsh
      simp only [ShapeEncodes] at henc
    · cases h
      exact ⟨_, by simp [henc], rfl⟩
    · obtain ⟨n, hl, hi⟩ := takeByte_done h
      exact ⟨_, by simp [henc, hl], hi⟩
    · obtain ⟨n, hl, hi⟩ := takeWord_done h
      exact ⟨_, by simp [henc, hl], hi⟩

/-- What a shape parses is the encoding of what it answers. -/
theorem EncodesAs.of_parse {op l rest : List Byte} {sh : Shape} {i : Instr} (h : EncodesAs op sh)
    (hp : sh.parse l = .done i rest) : op ++ l = encode i ++ rest ∧ i.wellFormed = true ∧ i.canonical = i := by
  cases sh with
  | inh j =>
    obtain ⟨henc, hwf⟩ := h
    cases hp
    exact ⟨by rw [henc], hwf⟩
  | imm8 k | dir k | rel8 k | stk k =>
    obtain ⟨v, rfl, rfl⟩ := takeByte_done hp
    obtain ⟨henc, hwf⟩ := h v
    exact ⟨by simp [henc], hwf⟩
  | imm16 k | ext k | rel16 k =>
    obtain ⟨v, rfl, rfl⟩ := takeWord_done hp
    obtain ⟨henc, hwf⟩ := h v
    exact ⟨by simp [henc], hwf⟩
  | idx k =>
    obtain ⟨v, rfl, rfl⟩ := takeIndexed_done hp
    obtain ⟨henc, hwf⟩ := h v
    exact ⟨by simp [henc], hwf⟩
  | regpair k =>
    obtain ⟨p, q, hsize, rfl, rfl⟩ := takePair_done hp
    obtain ⟨henc, hwf, hcan⟩ := h p q
    exact ⟨by simp [henc], hwf.trans hsize, hcan⟩

/-- Every entry of an opcode map is the entry of the encoder, after the bytes that select the page. -/
def MapEncodes (page : List Byte) (m : List (Nat × Shape)) : Prop :=
  ∀ e ∈ m, EncodesAs (page ++ [BitVec.ofNat 8 e.1]) e.2

theorem MapEncodes.append {page : List Byte} {m n : List (Nat × Shape)} (hm : MapEncodes page m)
    (hn : MapEncodes page n) : MapEncodes page (m ++ n) :=
  List.forall_mem_append.mpr ⟨hm, hn⟩

theorem MapEncodes.nil (page : List Byte) : MapEncodes page [] := List.forall_mem_nil _

theorem MapEncodes.cons {page : List Byte} {op : Nat} {sh : Shape} {m : List (Nat × Shape)}
    (h : EncodesAs (page ++ [BitVec.ofNat 8 op]) sh) (hm : MapEncodes page m) : MapEncodes page ((op, sh) :: m) :=
  List.forall_mem_cons.mpr ⟨h, hm⟩

/-- The three opcode maps of R104 to R106 are the encoder's, entry by entry. -/
theorem opcodeMaps_encode : MapEncodes [] page1 ∧ MapEncodes [0x10] page2 ∧ MapEncodes [0x11] page3 := by
  unfold page1 page2 page3
  refine ⟨?_, ?_, ?_⟩
  all_goals
    repeat' apply MapEncodes.append
  all_goals
    repeat' apply MapEncodes.cons
  any_goals exact MapEncodes.nil _
  all_goals
    simp only [EncodesAs]
    intros
    exact ⟨rfl, rfl, rfl⟩

theorem mem_of_lookupShape {op : Nat} {m : List (Nat × Shape)} {sh : Shape} (h : lookupShape op m = some sh) :
    (op, sh) ∈ m := by
  induction m with
  | nil => cases h
  | cons e rest ih =>
    obtain ⟨k, s⟩ := e
    simp only [lookupShape] at h
    split at h
    · rename_i hk
      rw [beq_iff_eq] at hk
      cases h
      rw [hk]
      exact List.mem_cons_self
    · exact List.mem_cons_of_mem _ (ih h)

/-- A byte that a map holds is followed by the encoding of what its shape parses. -/
theorem MapEncodes.of_lookup {page l rest : List Byte} {m : List (Nat × Shape)} {b : Byte} {sh : Shape} {i : Instr}
    (hm : MapEncodes page m) (hb : lookupShape b.toNat m = some sh) (hp : sh.parse l = .done i rest) :
    page ++ b :: l = encode i ++ rest ∧ i.wellFormed = true ∧ i.canonical = i := by
  have h := (hm _ (mem_of_lookupShape hb)).of_parse hp
  simpa using h

/-- Settles O7: by the page that the first byte selects. -/
theorem decodedBytesAreTheEncoding : Obligations.decoded_bytes_are_the_encoding := by
  unfold Obligations.decoded_bytes_are_the_encoding
  intro bytes rest i h
  obtain ⟨hpage1, hpage2, hpage3⟩ := opcodeMaps_encode
  match bytes with
  | [] => cases h
  | b0 :: l =>
    simp only [decode] at h
    split at h
    case isTrue hb =>
      match l with
      | [] => cases h
      | b1 :: l =>
        simp only at h
        split at h
        · cases h
        · rename_i hsh
          rcases hb with rfl | rfl
          · exact hpage2.of_lookup hsh h
          · exact hpage3.of_lookup hsh h
    case isFalse =>
      split at h
      · cases h
      · rename_i hsh
        exact hpage1.of_lookup hsh h

end Sys2Proof
end

section
/-! PROOFS. The illegal space (30_encoding.md R107 to R110), and the branch codes of 45_branch.md R310. -/

namespace Sys2Proof

open Sys2Proof.Machine

/-! ## Undefined opcodes -/

theorem lookupShape_eq_none {op : Nat} {m : List (Nat × Shape)} : lookupShape op m = none ↔ op ∉ m.map Prod.fst := by
  induction m with
  | nil => simp [lookupShape]
  | cons e rest ih =>
    obtain ⟨k, sh⟩ := e
    by_cases h : op = k <;> simp [lookupShape, h, ih]

theorem takeByte_legal (k : Byte → Instr) (l : List Byte) (e : DecodeError) : takeByte k l ≠ .illegal e := by
  cases l <;> simp [takeByte]

theorem takeWord_legal (k : Word → Instr) (l : List Byte) (e : DecodeError) : takeWord k l ≠ .illegal e := by
  match l with
  | [] | [_] | _ :: _ :: _ => simp [takeWord]

theorem takeIndexed_illegal {k : Indexed → Instr} {l : List Byte} {e : DecodeError} (h : takeIndexed k l = .illegal e) :
    ∃ pb, e = .illegalPostbyte pb := by
  cases l with
  | nil => cases h
  | cons pb l =>
    simp only [takeIndexed] at h
    split at h
    · cases h; exact ⟨pb, rfl⟩
    · cases h
    · exact absurd h (takeByte_legal _ _ _)
    · exact absurd h (takeWord_legal _ _ _)

theorem takePair_illegal {k : Reg → Reg → Instr} {l : List Byte} {e : DecodeError} (h : takePair k l = .illegal e) :
    ∃ pb, e = .illegalRegisterCode pb := by
  cases l with
  | nil => cases h
  | cons pb l =>
    simp only [takePair] at h
    split at h
    · split at h
      · cases h
      · cases h; exact ⟨pb, rfl⟩
    · cases h; exact ⟨pb, rfl⟩

/-- Operand bytes are never an illegal opcode. -/
theorem shape_parse_legalOpcode (sh : Shape) (l op : List Byte) : sh.parse l ≠ .illegal (.illegalOpcode op) := by
  intro h
  cases sh with
  | inh i => cases h
  | imm8 k | dir k | rel8 k | stk k => exact takeByte_legal _ _ _ h
  | imm16 k | ext k | rel16 k => exact takeWord_legal _ _ _ h
  | idx k => obtain ⟨pb, hpb⟩ := takeIndexed_illegal h; cases hpb
  | regpair k => obtain ⟨pb, hpb⟩ := takePair_illegal h; cases hpb

/-- A parse that is that of an opcode map: illegal where the map does not hold the opcode, whatever follows. -/
theorem illegalOpcode_iff {p : Parse} {b : Byte} {m : List (Nat × Shape)} {op l : List Byte}
    (hnone : lookupShape b.toNat m = none → p = .illegal (.illegalOpcode op))
    (hsome : ∀ sh, lookupShape b.toNat m = some sh → p = sh.parse l) :
    p = .illegal (.illegalOpcode op) ↔ b.toNat ∉ m.map Prod.fst := by
  rw [← lookupShape_eq_none]
  refine ⟨fun h => ?_, hnone⟩
  cases hsh : lookupShape b.toNat m with
  | none => rfl
  | some sh => exact absurd ((hsome sh hsh).symm.trans h) (shape_parse_legalOpcode sh l op)

theorem decode_page1_illegal_iff (b : Byte) (l : List Byte) :
    decode (b :: l) = .illegal (.illegalOpcode [b]) ↔ b ≠ 0x10 ∧ b ≠ 0x11 ∧ b.toNat ∉ page1.map Prod.fst := by
  by_cases hb : b = 0x10 ∨ b = 0x11
  · refine iff_of_false (fun h => ?_) (by tauto)
    simp only [decode, hb, if_true] at h
    cases l with
    | nil => cases h
    | cons b1 l =>
      simp only at h
      split at h
      · cases h
      · exact shape_parse_legalOpcode _ _ _ h
  · rw [illegalOpcode_iff (b := b) (m := page1) (l := l) (fun h => by simp only [decode, hb, if_false, h])
      fun sh h => by simp only [decode, hb, if_false, h]]
    tauto

theorem decode_page2_illegal_iff (b : Byte) (l : List Byte) :
    decode (0x10 :: b :: l) = .illegal (.illegalOpcode [0x10, b]) ↔ b.toNat ∉ page2.map Prod.fst :=
  illegalOpcode_iff (l := l) (fun h => by simp [decode, h]) fun sh h => by simp [decode, h]

theorem decode_page3_illegal_iff (b : Byte) (l : List Byte) :
    decode (0x11 :: b :: l) = .illegal (.illegalOpcode [0x11, b]) ↔ b.toNat ∉ page3.map Prod.fst :=
  illegalOpcode_iff (l := l) (fun h => by simp [decode, h]) fun sh h => by simp [decode, h]

/-- A set of numbers as the bits of one number, so that a comparison of two sets is one computation. -/
def bitsOf : List Nat → Nat
  | [] => 0
  | n :: l => 2 ^ n ||| bitsOf l

theorem testBit_bitsOf (l : List Nat) (k : Nat) : (bitsOf l).testBit k = decide (k ∈ l) := by
  induction l with
  | nil => simp [bitsOf]
  | cons n l ih => simp [bitsOf, Nat.testBit_or, Nat.testBit_two_pow, ih, eq_comm]

/-- Two sets that differ in each of the first `w` numbers are complements there. -/
theorem not_mem_iff_mem_of_xor {l m : List Nat} {w : Nat} (h : bitsOf l ^^^ bitsOf m = 2 ^ w - 1) {k : Nat} (hk : k < w) :
    k ∉ l ↔ k ∈ m := by
  have hbit := congrArg (Nat.testBit · k) h
  simp only [Nat.testBit_xor, testBit_bitsOf, Nat.testBit_two_pow_sub_one] at hbit
  by_cases hl : k ∈ l <;> by_cases hm : k ∈ m <;> simp_all

/-- The opcodes that page 1 leaves out, the two page bytes aside (R107). -/
theorem page1_unused (b : Byte) : (b ≠ 0x10 ∧ b ≠ 0x11 ∧ b.toNat ∉ page1.map Prod.fst) ↔
    b.toNat ∈ [0x01, 0x02, 0x05, 0x0B, 0x14, 0x15, 0x18, 0x1B, 0x38, 0x3E, 0x41, 0x42, 0x45, 0x4B, 0x4E, 0x51, 0x52,
        0x55, 0x5B, 0x5E, 0x61, 0x62, 0x65, 0x6B, 0x71, 0x72, 0x75, 0x7B, 0x87, 0x8F, 0xC7, 0xCD, 0xCF] := by
  refine Iff.trans ?_ (not_mem_iff_mem_of_xor (l := 0x10 :: 0x11 :: page1.map Prod.fst) (by decide +kernel) b.isLt)
  simp only [List.mem_cons, not_or, ne_eq, ← BitVec.toNat_inj, BitVec.reduceToNat]

/-- Settles O9: a byte that is in no map is illegal, and only such a byte. -/
theorem unusedOpcodesAreIllegal : Obligations.unused_opcodes_are_illegal := by
  unfold Obligations.unused_opcodes_are_illegal
  refine ⟨fun b l => ?page1, fun b l => ?page2, fun b l => ?page3, rfl, rfl⟩
  case page1 => rw [decode_page1_illegal_iff, page1_unused]
  case page2 => exact decode_page2_illegal_iff b l
  case page3 => exact decode_page3_illegal_iff b l

/-! ## Undefined postbytes -/

theorem takeIndexed_illegal_iff (k : Indexed → Instr) (pb : Byte) (l : List Byte) :
    takeIndexed k (pb :: l) = .illegal (.illegalPostbyte pb) ↔ (indexedShape pb).isNone = true := by
  simp only [takeIndexed]
  split <;> rename_i h <;> rw [h]
  · exact iff_of_true rfl rfl
  · exact iff_of_false nofun nofun
  · exact iff_of_false (takeByte_legal _ _ _) nofun
  · exact iff_of_false (takeWord_legal _ _ _) nofun

/-- The postbytes without a form (R109). -/
theorem indexedShape_undefined : ∀ pb : Byte, (indexedShape pb).isNone = true ↔
      pb.toNat ∈ [0x87, 0x8A, 0x8E, 0x97, 0x9A, 0x9E, 0xA7, 0xAA, 0xAE, 0xB7, 0xBA, 0xBE, 0xC7, 0xCA, 0xCE, 0xD7, 0xDA,
        0xDE, 0xE7, 0xEA, 0xEE, 0xF7, 0xFA, 0xFE, 0x8F, 0xAF, 0xCF, 0xEF, 0xBF, 0xDF, 0xFF, 0x90, 0xB0, 0xD0, 0xF0,
        0x92, 0xB2, 0xD2, 0xF2] := by
  decide

/-- Settles O10: a postbyte is illegal where it has no form, and only there. -/
theorem undefinedPostbytesAreIllegal : Obligations.undefined_postbytes_are_illegal := by
  unfold Obligations.undefined_postbytes_are_illegal
  intro pb l k
  rw [takeIndexed_illegal_iff, indexedShape_undefined]

/-! ## Register codes -/

/-- Do the two codes of a register pair name registers of one size (R100, R110)? -/
def pairDefined (pb : Byte) : Bool :=
  match Reg.ofCode (pb.extractLsb' 4 4), Reg.ofCode (pb.extractLsb' 0 4) with
  | some p, some q => p.sameSize q
  | _, _ => false

theorem takePair_illegal_iff (k : Reg → Reg → Instr) (pb : Byte) (l : List Byte) :
    takePair k (pb :: l) = .illegal (.illegalRegisterCode pb) ↔ ¬ pairDefined pb = true := by
  cases hp : Reg.ofCode (pb.extractLsb' 4 4) <;> cases hq : Reg.ofCode (pb.extractLsb' 0 4)
  case some.some p q => cases hsize : p.sameSize q <;> simp [takePair, pairDefined, hp, hq, hsize]
  all_goals simp [takePair, pairDefined, hp, hq]

theorem pairDefined_iff : ∀ pb : Byte, pairDefined pb = true ↔
    ((pb.toNat / 16 < 6 ∧ pb.toNat % 16 < 6) ∨
        (8 ≤ pb.toNat / 16 ∧ pb.toNat / 16 < 12 ∧ 8 ≤ pb.toNat % 16 ∧ pb.toNat % 16 < 12)) := by
  decide

/-- Settles O38: the terms fault by their check of sizes, the bytes by that of the parsed pair. -/
theorem mixedSizesFault : Obligations.mixed_sizes_fault := by
  unfold Obligations.mixed_sizes_fault
  refine ⟨fun p q t hsize => ?terms, fun op pb l hop => ?bytes⟩
  case terms =>
    have hmixed : ¬ p.sameSize q = true := by rw [hsize]; exact Bool.false_ne_true
    exact ⟨if_neg hmixed, if_neg hmixed⟩
  case bytes =>
    rw [← pairDefined_iff pb]
    rcases hop with rfl | rfl
    · exact takePair_illegal_iff .exg pb l
    · exact takePair_illegal_iff .tfr pb l

/-! ## Branch codes -/

/-- Settles O39: the decoder runs on each of the opcodes, and each pair of codes is a condition and its complement. -/
theorem branchCodesAndConditions : Obligations.branch_codes_and_conditions := by
  unfold Obligations.branch_codes_and_conditions
  refine ⟨fun code off hc => ?short, fun code h l h0 hc => ?long, fun k n z v c hk => ?complement⟩
  case short => interval_cases code <;> exact ⟨_, List.mem_cons_self, rfl⟩
  case long => interval_cases code <;> exact ⟨_, List.mem_cons_self, rfl⟩
  case complement =>
    revert n z v c
    interval_cases k <;> decide

end Sys2Proof
end

section
/-! PROOFS. The 8-bit accumulator instructions (41_accumulator_memory_8bit.md R170 to R195). -/

namespace Sys2Proof.Machine

/-! ## Registers that a flag update or an accumulator write keeps -/

theorem State.acc_congr {t t' : State} (ha : t'.a = t.a) (hb : t'.b = t.b) (r : Acc) : t'.acc r = t.acc r := by
  cases r
  · exact ha
  · exact hb

theorem State.ptr_congr {t t' : State} (hx : t'.x = t.x) (hy : t'.y = t.y) (hu : t'.u = t.u) (hs : t'.s = t.s)
    (r : Ptr) : t'.ptr r = t.ptr r := by
  cases r
  · exact hx
  · exact hy
  · exact hu
  · exact hs

@[simp] theorem State.setFlag_acc (t : State) (k : Flag) (b : Bool) (r : Acc) : (t.setFlag k b).acc r = t.acc r :=
  State.acc_congr rfl rfl r

@[simp] theorem State.freeFlag_acc (t : State) (k : Flag) (r : Acc) : (t.freeFlag k).acc r = t.acc r :=
  State.acc_congr rfl rfl r

@[simp] theorem State.setNZVC_acc {w : Nat} (t : State) (d : BitVec w) (v c : Bool) (r : Acc) :
    (t.setNZVC d v c).acc r = t.acc r :=
  State.acc_congr rfl rfl r

@[simp] theorem State.setLogic_acc {w : Nat} (t : State) (d : BitVec w) (r : Acc) : (t.setLogic d).acc r = t.acc r :=
  State.acc_congr rfl rfl r

@[simp] theorem State.setFlag_ptr (t : State) (k : Flag) (b : Bool) (r : Ptr) : (t.setFlag k b).ptr r = t.ptr r :=
  State.ptr_congr rfl rfl rfl rfl r

@[simp] theorem State.freeFlag_ptr (t : State) (k : Flag) (r : Ptr) : (t.freeFlag k).ptr r = t.ptr r :=
  State.ptr_congr rfl rfl rfl rfl r

@[simp] theorem State.setNZVC_ptr {w : Nat} (t : State) (d : BitVec w) (v c : Bool) (r : Ptr) :
    (t.setNZVC d v c).ptr r = t.ptr r :=
  State.ptr_congr rfl rfl rfl rfl r

@[simp] theorem State.setLogic_ptr {w : Nat} (t : State) (d : BitVec w) (r : Ptr) : (t.setLogic d).ptr r = t.ptr r :=
  State.ptr_congr rfl rfl rfl rfl r

@[simp] theorem State.setAcc_ptr (t : State) (q : Acc) (v : Byte) (r : Ptr) : (t.setAcc q v).ptr r = t.ptr r := by
  cases q <;> exact State.ptr_congr rfl rfl rfl rfl r

/-! ## Flags of a result -/

theorem beq_zero_eq_decide {w : Nat} (r : BitVec w) : (r == 0#w) = decide (r.toNat = 0) := by
  rw [Bool.eq_iff_iff, beq_iff_eq, decide_eq_true_iff]
  exact ⟨fun h => by rw [h]; rfl, fun h => BitVec.eq_of_toNat_eq h⟩

theorem signAndZero_iff {w : Nat} {r : BitVec w} {t : State} :
    SignAndZero r t ↔ t.flag .n = r.msb ∧ t.flag .z = (r == 0#w) := by
  rw [SignAndZero, ← BitVec.msb, beq_zero_eq_decide]

theorem signAndZero_setNZVC {w : Nat} (t : State) (r : BitVec w) (v c : Bool) : SignAndZero r (t.setNZVC r v c) :=
  signAndZero_iff.mpr (by simp)

theorem signAndZero_setLogic {w : Nat} (t : State) (r : BitVec w) : SignAndZero r (t.setLogic r) :=
  signAndZero_iff.mpr (by simp)

/-! ## What the address phase leaves -/

theorem operand8_idx_ptr (i : Indexed) (t : State) (r : Ptr) :
    (operand8 (.idx i) t).2.ptr r = (indexedEA i t).2.ptr r :=
  readByte_ptr _ _ r

/-- An instruction that writes no pointer register after its operand leaves that of the address phase. -/
theorem Src8Leaves.of_ptr {o : Src8} {t t' : State} (h : ∀ r, t'.ptr r = (operand8 o t).2.ptr r) : Src8Leaves o t t' := by
  cases o with
  | idx i => exact fun r _ _ => (h r).trans (operand8_idx_ptr i t r)
  | imm v | dir v | ext v => exact trivial

theorem MemLeaves.of_ptr {dest : List Loc} {m : Mem} {t t' : State} (h : ∀ r, t'.ptr r = (memEA m t).2.ptr r) :
    MemLeaves dest m t t' := by
  cases m with
  | idx i => exact fun r _ _ => h r
  | dir v | ext v => exact trivial

/-! ## ADC and ADD -/

theorem addsInto_addAcc (r : Acc) (withCarry : Bool) (o : Src8) (t : State) :
    AddsInto r (withCarry && t.flag .c) o t (addAcc r withCarry o t) := by
  have hacc : (addAcc r withCarry o t).acc r = (addBits (t.acc r) (operand8 o t).1 (withCarry && t.flag .c)).r := by
    simp [addAcc, operand8_acc, operand8_flag]
  refine ⟨?sum, ?half, ?signs, ?overflow, ?carry, ?leaves, touches_addAcc r withCarry o t⟩
  case sum => rw [hacc]; exact addBits_r_toNat _ _ _
  case half => simp [addAcc, operand8_acc, operand8_flag, halfCarry]
  case signs =>
    rw [hacc]
    simp only [addAcc, operand8_acc, operand8_flag]
    exact signAndZero_setNZVC _ _ _ _
  case overflow =>
    have hv : (addAcc r withCarry o t).flag .v = (addBits (t.acc r) (operand8 o t).1 (withCarry && t.flag .c)).v := by
      simp [addAcc, operand8_acc, operand8_flag]
    rw [hv]
    exact addBits_v _ _ _
  case carry => simp [addAcc, operand8_acc, operand8_flag, addBits_c]
  case leaves => exact Src8Leaves.of_ptr fun q => by simp [addAcc]

/-- Settles O18: the four instructions are `addAcc`. -/
theorem addAccumulatorResult : Obligations.add_accumulator_result := by
  unfold Obligations.add_accumulator_result
  intro o t
  exact ⟨⟨_, rfl, addsInto_addAcc .a true o t⟩, ⟨_, rfl, addsInto_addAcc .b true o t⟩,
    ⟨_, rfl, addsInto_addAcc .a false o t⟩, ⟨_, rfl, addsInto_addAcc .b false o t⟩⟩

/-! ## SBC, SUB and CMP -/

theorem subBits_r_toNat {w : Nat} (a b : BitVec w) (bin : Bool) :
    ((subBits a b bin).r.toNat : Int) = ((a.toNat : Int) - b.toNat - bin.toNat) % (2 ^ w : Nat) := by
  have hpos : ((2 ^ w : Nat) : Int) ≠ 0 := by exact_mod_cast (Nat.two_pow_pos w).ne'
  simp only [subBits, BitVec.toNat_ofInt]
  exact Int.toNat_of_nonneg (Int.emod_nonneg _ hpos)

theorem differenceFlags_setNZVC (t : State) (x m : Byte) (bin : Bool) :
    DifferenceFlags x m bin (subBits x m bin).r
      (t.setNZVC (subBits x m bin).r (subBits x m bin).v (subBits x m bin).c) := by
  refine ⟨subBits_r_toNat x m bin, signAndZero_setNZVC _ _ _ _, ?_, ?_⟩
  · rw [State.flag_setNZVC]
    exact subBits_v x m bin
  · simp [subBits_c]

theorem subtractsFrom_subAcc (r : Acc) (withBorrow : Bool) (o : Src8) (t : State) :
    SubtractsFrom r (withBorrow && t.flag .c) o t (subAcc r withBorrow o t) := by
  have hacc : (subAcc r withBorrow o t).acc r = (subBits (t.acc r) (operand8 o t).1 (withBorrow && t.flag .c)).r := by
    simp [subAcc, operand8_acc, operand8_flag]
  refine ⟨?difference, Src8Leaves.of_ptr fun q => by simp [subAcc], touches_subAcc r withBorrow o t⟩
  rw [hacc]
  simp only [subAcc, operand8_acc, operand8_flag]
  exact differenceFlags_setNZVC _ _ _ _

theorem differenceFlags_cmpAcc (r : Acc) (o : Src8) (t : State) :
    DifferenceFlags (t.acc r) (operand8 o t).1 false (subBits (t.acc r) (operand8 o t).1 false).r (cmpAcc r o t) := by
  simp only [cmpAcc, operand8_acc]
  exact differenceFlags_setNZVC _ _ _ _

theorem cmpAcc_leaves (r : Acc) (o : Src8) (t : State) : Src8Leaves o t (cmpAcc r o t) :=
  Src8Leaves.of_ptr fun q => by simp [cmpAcc]

/-- Settles O19: the subtractions are `subAcc`, the compares `cmpAcc`. -/
theorem subtractAndCompareAccumulator : Obligations.subtract_and_compare_accumulator := by
  unfold Obligations.subtract_and_compare_accumulator
  intro o t
  refine ⟨⟨_, rfl, subtractsFrom_subAcc .a true o t⟩, ⟨_, rfl, subtractsFrom_subAcc .b true o t⟩,
    ⟨_, rfl, subtractsFrom_subAcc .a false o t⟩, ⟨_, rfl, subtractsFrom_subAcc .b false o t⟩, ?compares⟩
  simp only [List.forall_mem_cons]
  exact ⟨⟨_, rfl, ⟨_, differenceFlags_cmpAcc .a o t⟩, cmpAcc_leaves .a o t, touches_cmpAcc .a o t⟩,
    ⟨_, rfl, ⟨_, differenceFlags_cmpAcc .b o t⟩, cmpAcc_leaves .b o t, touches_cmpAcc .b o t⟩, List.forall_mem_nil _⟩

/-! ## AND, EOR, OR and BIT -/

theorem bitwiseResult_and (x m : Byte) : BitwiseResult (· && ·) x m (x &&& m) := fun _ _ => BitVec.getLsbD_and

theorem bitwiseResult_xor (x m : Byte) : BitwiseResult (· ^^ ·) x m (x ^^^ m) := fun _ _ => BitVec.getLsbD_xor

theorem bitwiseResult_or (x m : Byte) : BitwiseResult (· || ·) x m (x ||| m) := fun _ _ => BitVec.getLsbD_or

/-- An operation on bytes that is an operation on their bits. -/
theorem combinesInto_logicAcc {op : Bool → Bool → Bool} {f : Byte → Byte → Byte}
    (hf : ∀ x m, BitwiseResult op x m (f x m)) (r : Acc) (o : Src8) (t : State) :
    CombinesInto op r o t (logicAcc r f o t) := by
  have hacc : (logicAcc r f o t).acc r = f (t.acc r) (operand8 o t).1 := by simp [logicAcc, operand8_acc]
  refine ⟨?bits, ?signs, by simp [logicAcc], Src8Leaves.of_ptr fun q => by simp [logicAcc], touches_logicAcc r f o t⟩
  case bits => rw [hacc]; exact hf _ _
  case signs =>
    rw [hacc]
    simp only [logicAcc, operand8_acc]
    exact signAndZero_setLogic _ _

/-- The flags of AND, with no register written. -/
theorem bitAcc_result (r : Acc) (o : Src8) (t : State) :
    (∃ d, BitwiseResult (· && ·) (t.acc r) (operand8 o t).1 d ∧ SignAndZero d (bitAcc r o t)) ∧
      (bitAcc r o t).flag .v = false ∧ Src8Leaves o t (bitAcc r o t) ∧
      Touches (src8Writes o) [.n, .z, .v] [] t (bitAcc r o t) := by
  refine ⟨⟨_, bitwiseResult_and _ _, ?_⟩, by simp [bitAcc], Src8Leaves.of_ptr fun q => by simp [bitAcc],
    touches_bitAcc r o t⟩
  simp only [bitAcc, operand8_acc]
  exact signAndZero_setLogic _ _

/-- Settles O20: the six combinations are `logicAcc`, the two tests `bitAcc`. -/
theorem logicAndBitTestResult : Obligations.logic_and_bit_test_result := by
  unfold Obligations.logic_and_bit_test_result
  intro o t
  refine ⟨⟨_, rfl, combinesInto_logicAcc bitwiseResult_and .a o t⟩, ⟨_, rfl, combinesInto_logicAcc bitwiseResult_and .b o t⟩,
    ⟨_, rfl, combinesInto_logicAcc bitwiseResult_xor .a o t⟩, ⟨_, rfl, combinesInto_logicAcc bitwiseResult_xor .b o t⟩,
    ⟨_, rfl, combinesInto_logicAcc bitwiseResult_or .a o t⟩, ⟨_, rfl, combinesInto_logicAcc bitwiseResult_or .b o t⟩, ?tests⟩
  simp only [List.forall_mem_cons]
  exact ⟨⟨_, rfl, bitAcc_result .a o t⟩, ⟨_, rfl, bitAcc_result .b o t⟩, List.forall_mem_nil _⟩

/-! ## LD and ST -/

theorem loadAcc_result (r : Acc) (o : Src8) (t : State) :
    (loadAcc r o t).acc r = (operand8 o t).1 ∧ SignAndZero (operand8 o t).1 (loadAcc r o t) ∧
      (loadAcc r o t).flag .v = false ∧ Src8Leaves o t (loadAcc r o t) ∧
      Touches (r.loc :: src8Writes o) [.n, .z, .v] [] t (loadAcc r o t) :=
  ⟨by simp [loadAcc], signAndZero_setLogic _ _, by simp [loadAcc], Src8Leaves.of_ptr fun q => by simp [loadAcc],
    touches_loadAcc r o t⟩

/-- With no other bus master the address phase of a memory operand changes no memory. -/
theorem memEA_quiet (m : Mem) (t : State) (q : Quiet t) :
    Quiet (memEA m t).2 ∧ ∀ addr, (memEA m t).2.peek addr = t.peek addr := by
  obtain ⟨-, -, -, -, hmem⟩ := touches_memEA m t
  exact ⟨(hmem q).1, fun addr => (hmem q).2 addr List.not_mem_nil⟩

theorem memEA_kindAt (m : Mem) (t : State) (addr : Word) : (memEA m t).2.kindAt addr = t.kindAt addr := by
  obtain ⟨-, -, hplatform, -, -⟩ := touches_memEA m t
  unfold State.kindAt
  rw [hplatform]

/-- What a store would leave at an address is not changed by the address phase. -/
theorem memEA_storedByte (m : Mem) (t : State) (q : Quiet t) (addr : Word) (v : Byte) :
    storedByte (memEA m t).2 addr v = storedByte t addr v := by
  rw [storedByte, storedByte, memEA_kindAt, (memEA_quiet m t q).2]

theorem storeAcc_result (r : Acc) (m : Mem) (t : State) :
    (Quiet t → Canonical t →
        (storeAcc r m t).peek (memEA m t).1 = storedByte t (memEA m t).1 (t.acc r)) ∧
      SignAndZero (t.acc r) (storeAcc r m t) ∧ (storeAcc r m t).flag .v = false ∧
      MemLeaves [] m t (storeAcc r m t) ∧ Touches (memWrites m) [.n, .z, .v] [(memEA m t).1] t (storeAcc r m t) := by
  refine ⟨fun q h => ?stored, ?signs, by simp [storeAcc], MemLeaves.of_ptr fun q => by simp [storeAcc],
    touches_storeAcc r m t⟩
  case stored =>
    simp only [storeAcc, memEA_acc]
    rw [State.peek_of_mem (State.setLogic_mem _ _), writeByte_peek _ _ _ (memEA_quiet m t q).1 (memEA_wf m t h),
      memEA_storedByte m t q]
  case signs =>
    simp only [storeAcc, memEA_acc]
    exact signAndZero_setLogic _ _

/-- Settles O21: the loads are `loadAcc`, the stores `storeAcc`. -/
theorem loadAndStoreAccumulator : Obligations.load_and_store_accumulator := by
  unfold Obligations.load_and_store_accumulator
  refine ⟨fun o t => ?loads, fun m t => ?stores⟩
  case loads =>
    simp only [List.forall_mem_cons]
    exact ⟨⟨_, rfl, loadAcc_result .a o t⟩, ⟨_, rfl, loadAcc_result .b o t⟩, List.forall_mem_nil _⟩
  case stores =>
    simp only [List.forall_mem_cons]
    exact ⟨⟨_, rfl, storeAcc_result .a m t⟩, ⟨_, rfl, storeAcc_result .b m t⟩, List.forall_mem_nil _⟩

end Sys2Proof.Machine
end

section
/-! PROOFS. The read-modify-write instructions, TST, DAA and MUL (42_shift_rmw_8bit.md R200 to R240). -/

namespace Sys2Proof.Machine

/-! ## The ten operations -/

/-- What the machine does with the operand byte and the flags in each of the ten operations. -/
def ByteOp.meaning : ByteOp → Byte → State → Byte × State
  | .asl => aslByte
  | .asr => asrByte
  | .clr => clrByte
  | .com => comByte
  | .dec => decByte
  | .inc => incByte
  | .lsr => lsrByte
  | .neg => negByte
  | .rol => rolByte
  | .ror => rorByte

theorem exec_accInstrs (op : ByteOp) (r : Acc) (t : State) :
    ∀ i ∈ op.accInstrs r, exec i t = .next (modifyAcc op.meaning r t) := by
  cases op <;> cases r
  case asl.a | asl.b =>
    exact List.forall_mem_cons.mpr ⟨rfl, List.forall_mem_cons.mpr ⟨rfl, List.forall_mem_nil _⟩⟩
  all_goals exact List.forall_mem_cons.mpr ⟨rfl, List.forall_mem_nil _⟩

theorem exec_memInstrs (op : ByteOp) (m : Mem) (t : State) :
    ∀ i ∈ op.memInstrs m, exec i t = .next (modifyMem op.meaning m t) := by
  cases op
  case asl => exact List.forall_mem_cons.mpr ⟨rfl, List.forall_mem_cons.mpr ⟨rfl, List.forall_mem_nil _⟩⟩
  all_goals exact List.forall_mem_cons.mpr ⟨rfl, List.forall_mem_nil _⟩

theorem touches_meaning (op : ByteOp) (m : Byte) (t : State) : Touches [] op.flags [] t (op.meaning m t).2 := by
  cases op
  · exact touches_aslByte m t
  · exact touches_asrByte m t
  · exact touches_clrByte m t
  · exact touches_comByte m t
  · exact touches_decByte m t
  · exact touches_incByte m t
  · exact touches_lsrByte m t
  · exact touches_negByte m t
  · exact touches_rolByte m t
  · exact touches_rorByte m t

/-- The operations write flags, and nothing that an access writes. -/
theorem meaning_keeps (op : ByteOp) (m : Byte) (t : State) : (op.meaning m t).2.mem = t.mem ∧
    (op.meaning m t).2.bus = t.bus ∧ (op.meaning m t).2.io = t.io ∧ (op.meaning m t).2.platform = t.platform := by
  cases op <;> exact ⟨rfl, rfl, rfl, rfl⟩

/-! ## The table of R240 -/

theorem signAndZero_setNZV {w : Nat} (t : State) (r : BitVec w) (v : Bool) : SignAndZero r (t.setNZV r v) :=
  signAndZero_iff.mpr (by simp)

theorem signAndZero_setNZC {w : Nat} (t : State) (r : BitVec w) (c : Bool) : SignAndZero r (t.setNZC r c) :=
  signAndZero_iff.mpr (by simp)

theorem asl_value : ∀ m : Byte, (m <<< 1).toNat = 2 * m.toNat % 256 := by decide

theorem asr_value : ∀ m : Byte, (m.sshiftRight 1).toNat = m.toNat / 2 + (if 128 ≤ m.toNat then 128 else 0) := by decide

theorem com_value (m : Byte) : (~~~m).toNat = 255 - m.toNat := BitVec.toNat_not

theorem dec_value (m : Byte) : (m - 1).toNat = (m.toNat + 255) % 256 := by
  bv_omega

theorem lsr_value (m : Byte) : (m >>> 1).toNat = m.toNat / 2 := by
  rw [BitVec.toNat_ushiftRight, Nat.shiftRight_eq_div_pow, Nat.pow_one]

theorem neg_value (m : Byte) : (subBits 0x00 m false).r.toNat = (256 - m.toNat) % 256 := by
  rw [subBits_r]
  bv_omega

theorem neg_overflow : ∀ m : Byte, (subBits 0x00 m false).v = decide (m.toNat = 128) := by decide

theorem neg_carry (m : Byte) : (subBits 0x00 m false).c = decide (m.toNat ≠ 0) := by
  rw [subBits_c]
  exact decide_eq_decide.mpr (by simp; omega)

theorem rol_value : ∀ (m : Byte) (c : Bool),
    ((m <<< 1) ||| (if c then 0x01 else 0x00)).toNat = 2 * m.toNat % 256 + c.toNat := by decide

theorem ror_value : ∀ (m : Byte) (c : Bool),
    ((m >>> 1) ||| (if c then 0x80 else 0x00)).toNat = m.toNat / 2 + 128 * c.toNat := by decide

theorem beq_ofNat_iff (m : Byte) (k : Nat) (hk : k < 256) : (m == BitVec.ofNat 8 k) = decide (m.toNat = k) := by
  rw [Bool.eq_iff_iff, beq_iff_eq, decide_eq_true_iff]
  refine ⟨fun h => ?_, fun h => BitVec.eq_of_toNat_eq ?_⟩
  · rw [h, BitVec.toNat_ofNat]; exact Nat.mod_eq_of_lt hk
  · rw [h, BitVec.toNat_ofNat]; exact (Nat.mod_eq_of_lt hk).symm

/-- Each operation has the value and the flags of its row of R240. -/
theorem byteEffect_meaning (op : ByteOp) (m : Byte) (t : State) :
    ByteEffect op m (op.meaning m t).1 t (op.meaning m t).2 := by
  cases op with
  | asl => exact ⟨asl_value m, signAndZero_setNZVC _ _ _ _, by simp [ByteOp.meaning, aslByte, ByteOp.overflow],
      by simp [ByteOp.meaning, aslByte, ByteOp.carry]⟩
  | asr => exact ⟨asr_value m, signAndZero_setNZC _ _ _, by simp [ByteOp.meaning, asrByte, ByteOp.overflow],
      by simp [ByteOp.meaning, asrByte, ByteOp.carry]⟩
  | clr => exact ⟨rfl, signAndZero_setNZVC _ _ _ _, by simp [ByteOp.meaning, clrByte, ByteOp.overflow],
      by simp [ByteOp.meaning, clrByte, ByteOp.carry]⟩
  | com => exact ⟨com_value m, signAndZero_setNZVC _ _ _ _, by simp [ByteOp.meaning, comByte, ByteOp.overflow],
      by simp [ByteOp.meaning, comByte, ByteOp.carry]⟩
  | dec => exact ⟨dec_value m, signAndZero_setNZV _ _ _,
      by simp only [ByteOp.meaning, decByte, State.flag_setNZV, if_true]; exact beq_ofNat_iff m 128 (by decide),
      by simp [ByteOp.meaning, decByte, ByteOp.carry]⟩
  | inc => exact ⟨BitVec.toNat_add m 1, signAndZero_setNZV _ _ _,
      by simp only [ByteOp.meaning, incByte, State.flag_setNZV, if_true]; exact beq_ofNat_iff m 127 (by decide),
      by simp [ByteOp.meaning, incByte, ByteOp.carry]⟩
  | lsr => exact ⟨lsr_value m, signAndZero_setNZC _ _ _, by simp [ByteOp.meaning, lsrByte, ByteOp.overflow],
      by simp [ByteOp.meaning, lsrByte, ByteOp.carry]⟩
  | neg => exact ⟨neg_value m, signAndZero_setNZVC _ _ _ _,
      by simp only [ByteOp.meaning, negByte, State.flag_setNZVC, reduceCtorEq, if_true, if_false]; exact neg_overflow m,
      by simp only [ByteOp.meaning, negByte, State.flag_setNZVC, if_true]; exact neg_carry m⟩
  | rol => exact ⟨rol_value m _, signAndZero_setNZVC _ _ _ _, by simp [ByteOp.meaning, rolByte, ByteOp.overflow],
      by simp [ByteOp.meaning, rolByte, ByteOp.carry]⟩
  | ror => exact ⟨ror_value m _, signAndZero_setNZC _ _ _, by simp [ByteOp.meaning, rorByte, ByteOp.overflow],
      by simp [ByteOp.meaning, rorByte, ByteOp.carry]⟩

/-- An effect holds between any two states with the flags of those it holds between. -/
theorem ByteEffect.congr {op : ByteOp} {m r : Byte} {s s' t t' : State} (h : ByteEffect op m r s s')
    (hs : ∀ k, s.flag k = t.flag k) (hs' : ∀ k, t'.flag k = s'.flag k) : ByteEffect op m r t t' := by
  unfold ByteEffect SignAndZero at *
  simpa only [hs, hs'] using h

/-! ## The forms -/

theorem byteEffect_modifyAcc (op : ByteOp) (r : Acc) (t : State) :
    ByteEffect op (t.acc r) ((modifyAcc op.meaning r t).acc r) t (modifyAcc op.meaning r t) := by
  have hacc : (modifyAcc op.meaning r t).acc r = (op.meaning (t.acc r) t).1 := by simp [modifyAcc]
  rw [hacc]
  exact (byteEffect_meaning op (t.acc r) t).congr (fun _ => rfl) fun k => by simp [modifyAcc]

/-- Settles O22: the accumulator forms are `modifyAcc` of the operation. -/
theorem modifyAccumulatorResult : Obligations.modify_accumulator_result := by
  unfold Obligations.modify_accumulator_result
  intro op r i t hi
  exact ⟨_, exec_accInstrs op r t i hi, byteEffect_modifyAcc op r t, touches_modifyAcc _ _ (touches_meaning op) r t⟩

/-- The state in which a memory form has read its operand. -/
def operandRead (m : Mem) (t : State) : Byte × State := readByte (memEA m t).1 (memEA m t).2

theorem modifyMem_eq (f : Byte → State → Byte × State) (m : Mem) (t : State) :
    modifyMem f m t = writeByte (memEA m t).1 (f (operandRead m t).1 (operandRead m t).2).1
      (f (operandRead m t).1 (operandRead m t).2).2 := rfl

theorem operandRead_flag (m : Mem) (t : State) (k : Flag) : (operandRead m t).2.flag k = t.flag k :=
  (readByte_flag _ _ k).trans (memEA_flag m t k)

theorem operandRead_wf (m : Mem) (t : State) (h : Canonical t) : Canonical (operandRead m t).2 :=
  readByte_wf _ _ (memEA_wf m t h)

theorem touches_operandRead (m : Mem) (t : State) : Touches [] [] [] (memEA m t).2 (operandRead m t).2 :=
  touches_readByte _ _

theorem touches_operation (op : ByteOp) (m : Mem) (t : State) :
    Touches [] op.flags [] (memEA m t).2 (op.meaning (operandRead m t).1 (operandRead m t).2).2 :=
  (touches_operandRead m t).trans (touches_meaning op _ _)

theorem byteEffect_modifyMem (op : ByteOp) (m : Mem) (t : State) :
    ByteEffect op (operandRead m t).1 (op.meaning (operandRead m t).1 (operandRead m t).2).1 t
      (modifyMem op.meaning m t) := by
  refine (byteEffect_meaning op (operandRead m t).1 (operandRead m t).2).congr (operandRead_flag m t) fun k => ?_
  rw [modifyMem_eq, writeByte_flag]

/-- What a store would leave at an address is not changed by a step that touches no memory. -/
theorem Touches.storedByte {locs : List Loc} {flags : List Flag} {t t' : State} (h : Touches locs flags [] t t')
    (q : Quiet t) (addr : Word) (v : Byte) : storedByte t' addr v = storedByte t addr v := by
  obtain ⟨-, -, hplatform, -, hmem⟩ := h
  have hk : t'.kindAt addr = t.kindAt addr := by unfold State.kindAt; rw [hplatform]
  rw [Machine.storedByte, Machine.storedByte, hk, (hmem q).2 addr List.not_mem_nil]

theorem modifyMem_peek (op : ByteOp) (m : Mem) (t : State) (q : Quiet t) (h : Canonical t) :
    (modifyMem op.meaning m t).peek (memEA m t).1 =
      storedByte t (memEA m t).1 (op.meaning (operandRead m t).1 (operandRead m t).2).1 := by
  have hop := (touches_memEA m t).trans (touches_operation op m t)
  obtain ⟨-, -, -, -, hmem⟩ := hop
  obtain ⟨hkeep, -, -, -⟩ := meaning_keeps op (operandRead m t).1 (operandRead m t).2
  rw [modifyMem_eq, writeByte_peek _ _ _ (hmem q).1 ((operandRead_wf m t h).of_mem hkeep)]
  exact ((touches_memEA m t).trans (touches_operation op m t)).storedByte q _ _

/-- Settles O23: the memory forms are `modifyMem` of the operation. -/
theorem modifyMemoryResult : Obligations.modify_memory_result := by
  unfold Obligations.modify_memory_result
  intro op m i t hi
  refine ⟨_, exec_memInstrs op m t i hi, _, byteEffect_modifyMem op m t, modifyMem_peek op m t, ?leaves,
    touches_modifyMem _ _ (touches_meaning op) m t⟩
  refine MemLeaves.of_ptr fun r => ?_
  rw [modifyMem_eq, writeByte_ptr]
  exact (touches_operation op m t).ptr r List.not_mem_nil

/-- A memory form reads its byte and writes the result back, and moves nothing else. -/
theorem moves_modifyMem (op : ByteOp) (m : Mem) (t : State) :
    Moves [.read (memEA m t).1 (operandRead m t).1,
        .write (memEA m t).1 (op.meaning (operandRead m t).1 (operandRead m t).2).1]
      (memEA m t).2 (modifyMem op.meaning m t) := by
  obtain ⟨-, hbus, hio, hplatform⟩ := meaning_keeps op (operandRead m t).1 (operandRead m t).2
  have hread := (moves_readByte (memEA m t).1 (memEA m t).2).andKeeps hbus hio
  exact hread.trans (hplatform.trans (readByte_platform _ _)) (moves_writeByte _ _ _)

/-- Settles O24: of the two transfers the device at the address sees both. -/
theorem modifyReadsThenWritesDevice : Obligations.modify_reads_then_writes_device := by
  unfold Obligations.modify_reads_then_writes_device
  intro op m i t hi hdevice
  obtain ⟨hvalue, -⟩ := byteEffect_modifyMem op m t
  obtain ⟨-, hio⟩ := moves_modifyMem op m t
  refine ⟨_, exec_memInstrs op m t i hi, _, _, hvalue, ?_⟩
  simpa [deviceEvent, memEA_kindAt, hdevice] using hio

/-! ## TST -/

theorem testAcc_result (r : Acc) (t : State) :
    SignAndZero (t.acc r) (testAcc r t) ∧ (testAcc r t).flag .v = false ∧ Touches [] [.n, .z, .v] [] t (testAcc r t) :=
  ⟨signAndZero_setLogic _ _, by simp [testAcc], touches_testAcc r t⟩

/-- Settles O25: the flags of the operand, and no write. -/
theorem testFlags : Obligations.test_flags := by
  unfold Obligations.test_flags
  refine ⟨fun t r => ?accumulator, fun m t => ?memory⟩
  case accumulator =>
    cases r <;> exact List.forall_mem_cons.mpr ⟨⟨_, rfl, testAcc_result _ t⟩, List.forall_mem_nil _⟩
  case memory =>
    exact ⟨testMem m t, rfl, signAndZero_setLogic _ _, by simp [testMem], MemLeaves.of_ptr fun r => by simp [testMem],
      touches_testMem m t⟩

/-! ## DAA -/

theorem decimalCorrection_toNat (a : Byte) (h c : Bool) :
    (decimalCorrection a h c).toNat =
      16 * (if c = true ∨ 9 < a.toNat / 16 ∨ (8 < a.toNat / 16 ∧ 9 < a.toNat % 16) then 6 else 0) +
        (if h = true ∨ 9 < a.toNat % 16 then 6 else 0) := by
  simp only [decimalCorrection, BitVec.toNat_ofNat, Bool.or_eq_true, Bool.and_eq_true, decide_eq_true_iff, or_assoc]
  split <;> split <;> rfl

theorem decimalAdjust_a (t : State) :
    (decimalAdjust t).a = (addBits t.a (decimalCorrection t.a (t.flag .h) (t.flag .c)) false).r := by
  simp [decimalAdjust]

/-- Settles O26: the correction added, as `addBits` adds. -/
theorem decimalAdjustResult : Obligations.decimal_adjust_result := by
  unfold Obligations.decimal_adjust_result
  intro t
  refine ⟨_, rfl, ?_⟩
  simp only
  rw [← decimalCorrection_toNat, decimalAdjust_a]
  refine ⟨addBits_r_toNat _ _ _, signAndZero_iff.mpr (by simp [decimalAdjust]), ?carry, touches_decimalAdjust t⟩
  case carry => simp [decimalAdjust, addBits_c]

/-- The sum `n` of two numbers of two decimal digits written as bytes, corrected: the digits of the decimal sum, by
cases of the carries out of its two digits. -/
theorem corrected_digits {p q r s n low high carry res : Nat} (hp : p < 10) (hq : q < 10) (hr : r < 10) (hs : s < 10)
    (hn : n = 16 * p + q + (16 * r + s))
    (hlow : low = if 16 ≤ q + s ∨ 9 < n % 256 % 16 then 6 else 0)
    (hhigh : high = if 256 ≤ n ∨ 9 < n % 256 / 16 ∨ (8 < n % 256 / 16 ∧ 9 < n % 256 % 16) then 6 else 0)
    (hcarry : carry = if 256 ≤ n ∨ 256 ≤ n % 256 + (16 * high + low) then 1 else 0)
    (hres : res = (n % 256 + (16 * high + low)) % 256) :
    ∃ u v, u < 10 ∧ v < 10 ∧ res = 16 * u + v ∧ 10 * p + q + (10 * r + s) = 100 * carry + 10 * u + v := by
  refine ⟨res / 16, res % 16, ?_⟩
  split at hlow <;> split at hhigh <;> split at hcarry <;> omega

/-- Settles O27: the sum and H and C of ADDA are what the correction is taken from. -/
theorem decimalAdditionIsCorrect : Obligations.decimal_addition_is_correct := by
  unfold Obligations.decimal_addition_is_correct
  intro t p q r s hp hq hr hs ha m hm
  obtain ⟨hsum, hhalf, -, -, hcarry, -⟩ := addsInto_addAcc .a false (.imm m) t
  refine ⟨addAcc .a false (.imm m) t, rfl, ?_⟩
  generalize addAcc .a false (.imm m) t = t1 at *
  obtain ⟨t2, hexec, hadjust, -, hc, -⟩ := decimalAdjustResult t1
  refine ⟨t2, hexec, ?_⟩
  have hq' : (16 * p + q) % 16 = q := by omega
  have hs' : (16 * r + s) % 16 = s := by omega
  simp only [State.acc, operand8, Bool.false_and, Bool.toNat_false, ha, hm, hq', hs', Nat.add_zero] at hsum hhalf hcarry
  simp only [hsum, hhalf, hcarry, decide_eq_true_iff] at hadjust hc
  have hc' : (t2.flag .c).toNat = if t2.flag .c = true then 1 else 0 := by cases t2.flag .c <;> rfl
  simp only [hc] at hc'
  exact corrected_digits hp hq hr hs rfl rfl rfl hc' hadjust

/-! ## MUL -/

theorem lowByte_msb (v : Word) : (lowByte v).msb = v.getLsbD 7 := by
  simp [BitVec.msb_eq_getLsbD_last, lowByte]

/-- Settles O28: the product of two bytes has 16 bits. -/
theorem multiplyResult : Obligations.multiply_result := by
  unfold Obligations.multiply_result
  intro t
  have hlt : t.a.toNat * t.b.toNat < 2 ^ 16 := by
    have := Nat.mul_le_mul (Nat.le_of_lt_succ t.a.isLt) (Nat.le_of_lt_succ t.b.isLt)
    omega
  have hp : (BitVec.ofNat 16 (t.a.toNat * t.b.toNat)).toNat = t.a.toNat * t.b.toNat := by
    rw [BitVec.toNat_ofNat, Nat.mod_eq_of_lt hlt]
  refine ⟨_, rfl, ?product, ?zero, ?carry, touches_multiply t⟩
  case product =>
    simp only [multiply, State.setD, State.setFlag_a, State.setFlag_b, State.setB_a, State.setB_b, State.setA_a,
      highByte_toNat, lowByte_toNat, hp]
    omega
  case zero =>
    have hz : (multiply t).flag .z = (BitVec.ofNat 16 (t.a.toNat * t.b.toNat) == 0#16) := by simp [multiply]
    rw [hz, beq_zero_eq_decide, hp]
  case carry =>
    have hc : (multiply t).flag .c = (BitVec.ofNat 16 (t.a.toNat * t.b.toNat)).getLsbD 7 := by
      simp only [multiply, State.flag_setFlag, if_true]
    have hb : (multiply t).b = lowByte (BitVec.ofNat 16 (t.a.toNat * t.b.toNat)) := rfl
    rw [hc, hb, ← lowByte_msb, BitVec.msb_eq_decide]

end Sys2Proof.Machine
end

section
/-! PROOFS. The 16-bit instructions (43_16bit_pointer.md R250 to R275). -/

namespace Sys2Proof.Machine

/-! ## 16-bit registers -/

theorem State.wide_congr {t t' : State} (ha : t'.a = t.a) (hb : t'.b = t.b) (hp : ∀ p, t'.ptr p = t.ptr p) (r : Wide) :
    t'.wide r = t.wide r := by
  cases r with
  | d => simp only [State.wide, State.d, ha, hb]
  | ptr p => exact hp p

@[simp] theorem State.setNZVC_wide {w : Nat} (t : State) (d : BitVec w) (v c : Bool) (r : Wide) :
    (t.setNZVC d v c).wide r = t.wide r :=
  State.wide_congr rfl rfl (State.setNZVC_ptr t d v c) r

@[simp] theorem State.setLogic_wide {w : Nat} (t : State) (d : BitVec w) (r : Wide) : (t.setLogic d).wide r = t.wide r :=
  State.wide_congr rfl rfl (State.setLogic_ptr t d) r

@[simp] theorem State.wide_setWide (t : State) (r : Wide) (v : Word) : (t.setWide r v).wide r = v := by
  cases r with
  | d => exact State.d_setD t v
  | ptr p => exact (State.ptr_setPtr t p p v).trans (if_pos rfl)

/-- A write to another register keeps a pointer register. -/
theorem State.setWide_ptr_other (t : State) (r : Wide) (v : Word) (p : Ptr) (h : ptrLoc p ∉ r.locs) :
    (t.setWide r v).ptr p = t.ptr p :=
  (touches_setWide t r v).ptr p h

theorem ptrLoc_not_accumulator (p : Ptr) : ptrLoc p ∉ Wide.locs .d := by
  cases p <;> decide

theorem operand16_idx_ptr (i : Indexed) (t : State) (r : Ptr) :
    (operand16 (.idx i) t).2.ptr r = (indexedEA i t).2.ptr r :=
  readWord_ptr _ _ r

/-- An instruction that writes after its operand only the pointer registers listed leaves the others as the address
phase does. -/
theorem Src16Leaves.of_ptr {dest : List Loc} {o : Src16} {t t' : State}
    (h : ∀ r, ptrLoc r ∉ dest → t'.ptr r = (operand16 o t).2.ptr r) : Src16Leaves dest o t t' := by
  cases o with
  | idx i => exact fun r _ n => (h r n).trans (operand16_idx_ptr i t r)
  | imm v | dir v | ext v => exact trivial

/-! ## Sum, difference and compare -/

theorem addWide_wide (r : Wide) (o : Src16) (t : State) :
    (addWide r o t).wide r = (addBits ((operand16 o t).2.wide r) (operand16 o t).1 false).r := by
  simp [addWide]

theorem wideDifferenceFlags_setNZVC (t : State) (x m : Word) :
    WideDifferenceFlags x m (subBits x m false).r
      (t.setNZVC (subBits x m false).r (subBits x m false).v (subBits x m false).c) := by
  refine ⟨?difference, signAndZero_setNZVC _ _ _ _, ?overflow, ?borrow⟩
  case difference => simpa using subBits_r_toNat x m false
  case overflow =>
    rw [State.flag_setNZVC]
    simpa [OutOfRange] using subBits_v x m false
  case borrow => simp [subBits_c]

theorem wideDifferenceFlags_cmpWide (r : Wide) (o : Src16) (t : State) :
    WideDifferenceFlags ((operand16 o t).2.wide r) (operand16 o t).1
      (subBits ((operand16 o t).2.wide r) (operand16 o t).1 false).r (cmpWide r o t) :=
  wideDifferenceFlags_setNZVC _ _ _

/-- The flags of the difference, with no register written after the operand. -/
theorem cmpWide_result (r : Wide) (o : Src16) (t : State) :
    (∃ d, WideDifferenceFlags ((operand16 o t).2.wide r) (operand16 o t).1 d (cmpWide r o t)) ∧
      Src16Leaves [] o t (cmpWide r o t) ∧ Touches (src16Writes o) [.n, .z, .v, .c] [] t (cmpWide r o t) :=
  ⟨⟨_, wideDifferenceFlags_cmpWide r o t⟩, Src16Leaves.of_ptr fun q _ => by simp [cmpWide], touches_cmpWide r o t⟩

theorem subWide_wide (r : Wide) (o : Src16) (t : State) :
    (subWide r o t).wide r = (subBits ((operand16 o t).2.wide r) (operand16 o t).1 false).r := by
  simp [subWide]

theorem addWide_d_leaves (o : Src16) (t : State) : Src16Leaves [] o t (addWide .d o t) :=
  Src16Leaves.of_ptr fun q _ => by
    simp only [addWide, State.setNZVC_ptr]
    exact State.setWide_ptr_other _ _ _ q (ptrLoc_not_accumulator q)

theorem subWide_d_leaves (o : Src16) (t : State) : Src16Leaves [] o t (subWide .d o t) :=
  Src16Leaves.of_ptr fun q _ => by
    simp only [subWide, State.setNZVC_ptr]
    exact State.setWide_ptr_other _ _ _ q (ptrLoc_not_accumulator q)

/-- Settles O29: the sum and the difference of D, and the five compares. -/
theorem wideArithmeticResult : Obligations.wide_arithmetic_result := by
  unfold Obligations.wide_arithmetic_result
  intro o t
  have hd : (operand16 o t).2.wide .d = t.d := operand16_d o t
  refine ⟨⟨addWide .d o t, rfl, ?add⟩, ⟨subWide .d o t, rfl, ?sub⟩, ?compares⟩
  case add =>
    have hsum : (addWide .d o t).d = (addBits t.d (operand16 o t).1 false).r := (addWide_wide .d o t).trans (by rw [hd])
    refine ⟨?_, ?_, ?_, ?_, addWide_d_leaves o t, touches_addWide .d o t⟩
    · rw [hsum]; exact addBits_r_toNat _ _ _
    · rw [hsum]
      simp only [addWide, hd]
      exact signAndZero_setNZVC _ _ _ _
    · simp only [addWide, hd, State.flag_setNZVC, reduceCtorEq, if_true, if_false]
      simpa [OutOfRange] using addBits_v t.d (operand16 o t).1 false
    · simp [addWide, hd, addBits_c]
  case sub =>
    have hdiff : (subWide .d o t).d = (subBits t.d (operand16 o t).1 false).r := (subWide_wide .d o t).trans (by rw [hd])
    refine ⟨?_, subWide_d_leaves o t, touches_subWide .d o t⟩
    rw [hdiff]
    simp only [subWide, hd]
    exact wideDifferenceFlags_setNZVC _ _ _
  case compares =>
    simp only [List.forall_mem_cons]
    exact ⟨⟨_, rfl, cmpWide_result .d o t⟩, ⟨_, rfl, cmpWide_result (.ptr .x) o t⟩, ⟨_, rfl, cmpWide_result (.ptr .y) o t⟩,
      ⟨_, rfl, cmpWide_result (.ptr .u) o t⟩, ⟨_, rfl, cmpWide_result (.ptr .s) o t⟩, List.forall_mem_nil _⟩

/-! ## Load and store -/

theorem loadWide_result (r : Wide) (o : Src16) (t : State) :
    (loadWide r o t).wide r = (operand16 o t).1 ∧ SignAndZero (operand16 o t).1 (loadWide r o t) ∧
      (loadWide r o t).flag .v = false ∧ Src16Leaves r.locs o t (loadWide r o t) ∧
      Touches (r.locs ++ src16Writes o) [.n, .z, .v] [] t (loadWide r o t) := by
  refine ⟨by simp [loadWide], signAndZero_setLogic _ _, by simp [loadWide], ?_, touches_loadWide r o t⟩
  refine Src16Leaves.of_ptr fun q n => ?_
  simp only [loadWide, State.setLogic_ptr]
  exact State.setWide_ptr_other _ _ _ q n

/-- Settles O30: the loads are `loadWide`, and LDS arms after it. -/
theorem loadWideResult : Obligations.load_wide_result := by
  unfold Obligations.load_wide_result
  intro o t
  refine ⟨?loads, ⟨armNmi (loadWide (.ptr .s) o t), rfl, ?lds⟩⟩
  case loads =>
    simp only [List.forall_mem_cons]
    exact ⟨⟨_, rfl, loadWide_result .d o t⟩, ⟨_, rfl, loadWide_result (.ptr .x) o t⟩,
      ⟨_, rfl, loadWide_result (.ptr .y) o t⟩, ⟨_, rfl, loadWide_result (.ptr .u) o t⟩, List.forall_mem_nil _⟩
  case lds =>
    obtain ⟨hload, hsigns, hv, hleaves, htouches⟩ := loadWide_result (.ptr .s) o t
    refine ⟨hload, rfl, hsigns, hv, ?_, (htouches.trans (touches_armNmi _)).mono (by simp [Wide.locs, ptrLoc, or_comm])
      (by simp) (by simp)⟩
    cases o with
    | idx i => exact hleaves
    | imm v | dir v | ext v => exact trivial

/-- Two bytes stored where the address phase points, of the register as it leaves it. -/
theorem storeWide_result (r : Wide) (m : Mem) (t : State) :
    (Quiet t → Canonical t →
        (storeWide r m t).peek (memEA m t).1 = storedByte t (memEA m t).1 (highByte ((memEA m t).2.wide r)) ∧
        (storeWide r m t).peek ((memEA m t).1 + 1) =
          storedByte t ((memEA m t).1 + 1) (lowByte ((memEA m t).2.wide r))) ∧
      SignAndZero ((memEA m t).2.wide r) (storeWide r m t) ∧ (storeWide r m t).flag .v = false ∧
      MemLeaves [] m t (storeWide r m t) ∧
      Touches (memWrites m) [.n, .z, .v] [(memEA m t).1, (memEA m t).1 + 1] t (storeWide r m t) := by
  refine ⟨fun q h => ?_, signAndZero_setLogic _ _, by simp [storeWide], MemLeaves.of_ptr fun p => by simp [storeWide],
    touches_storeWide r m t⟩
  have hpeek : ∀ addr, (storeWide r m t).peek addr =
      (writeWord (memEA m t).1 ((memEA m t).2.wide r) (memEA m t).2).peek addr :=
    State.peek_of_mem (State.setLogic_mem _ _)
  have hstored := writeWord_peek (memEA m t).1 ((memEA m t).2.wide r) _ (memEA_quiet m t q).1 (memEA_wf m t h)
  rw [memEA_storedByte m t q, memEA_storedByte m t q] at hstored
  rw [hpeek, hpeek]
  exact hstored

/-- Settles O31: the stores are `storeWide`. -/
theorem storeWideResult : Obligations.store_wide_result := by
  unfold Obligations.store_wide_result
  intro m t
  simp only [List.forall_mem_cons]
  exact ⟨⟨_, rfl, storeWide_result .d m t⟩, ⟨_, rfl, storeWide_result (.ptr .x) m t⟩,
    ⟨_, rfl, storeWide_result (.ptr .y) m t⟩, ⟨_, rfl, storeWide_result (.ptr .u) m t⟩,
    ⟨_, rfl, storeWide_result (.ptr .s) m t⟩, List.forall_mem_nil _⟩

/-! ## Load effective address -/

/-- An armed latch that is not listed is kept. -/
theorem Touches.nmiArmed {locs : List Loc} {flags : List Flag} {stores : List Word} {t t' : State}
    (h : Touches locs flags stores t t') (n : Loc.nmiArmed ∉ locs) : t'.nmiArmed = t.nmiArmed := by
  have hlook : t'.nmiArmed.toNat = t.nmiArmed.toNat := h.1 .nmiArmed n
  revert hlook
  cases t'.nmiArmed <;> cases t.nmiArmed <;> simp

/-- The indexed forms write no place but a pointer register. -/
theorem not_mem_indexedWrites {l : Loc} (h : ∀ r, l ≠ ptrLoc r) (i : Indexed) : l ∉ indexedWrites i := fun m => by
  obtain ⟨r, hr⟩ := indexedWrites_pointers i l m
  exact h r hr

theorem ptrLoc_ne {p r : Ptr} (h : ptrLoc r ∉ [ptrLoc p]) : r ≠ p :=
  fun e => h (by rw [e]; exact List.mem_singleton_self _)

theorem loadAddress_result (p : Ptr) (i : Indexed) (t : State) :
    (loadAddress p i t).ptr p = (indexedEA i t).1 ∧ IndexedLeaves [ptrLoc p] i t (loadAddress p i t) ∧
      Touches (ptrLoc p :: indexedWrites i) [] [] t (loadAddress p i t) :=
  ⟨by simp [loadAddress], fun r _ n => by simp [loadAddress, ptrLoc_ne n], touches_loadAddress p i t⟩

theorem loadAddressZ_result (p : Ptr) (i : Indexed) (t : State) :
    (loadAddressZ p i t).ptr p = (indexedEA i t).1 ∧
      (loadAddressZ p i t).flag .z = decide ((indexedEA i t).1.toNat = 0) ∧
      IndexedLeaves [ptrLoc p] i t (loadAddressZ p i t) ∧
      Touches (ptrLoc p :: indexedWrites i) [.z] [] t (loadAddressZ p i t) := by
  refine ⟨by simp [loadAddressZ], ?_, fun r _ n => by simp [loadAddressZ, ptrLoc_ne n], touches_loadAddressZ p i t⟩
  rw [← beq_zero_eq_decide]
  simp [loadAddressZ]

/-- Settles O32: LEAX and LEAY are `loadAddressZ`, LEAU and LEAS `loadAddress`. -/
theorem loadAddressResult : Obligations.load_address_result := by
  unfold Obligations.load_address_result
  intro i t
  refine ⟨?withZ, ⟨_, rfl, loadAddress_result .u i t⟩, ⟨armNmiIf .leas (loadAddress .s i t), rfl, ?leas⟩⟩
  case withZ =>
    simp only [List.forall_mem_cons]
    exact ⟨⟨_, rfl, loadAddressZ_result .x i t⟩, ⟨_, rfl, loadAddressZ_result .y i t⟩, List.forall_mem_nil _⟩
  case leas =>
    obtain ⟨hs, hleaves, htouches⟩ := loadAddress_result .s i t
    have harmed : (loadAddress .s i t).nmiArmed = t.nmiArmed :=
      htouches.nmiArmed fun m => (List.mem_cons.mp m).elim nofun (not_mem_indexedWrites (by intro r; cases r <;> nofun) i)
    exact ⟨hs, fun h => armNmiIf_keeps _ _ (harmed.trans h), hleaves,
      (htouches.trans (touches_armNmiIf _ _)).mono (by simp [ptrLoc, or_comm]) (by simp) (by simp)⟩

/-! ## ABX and SEX -/

theorem joinBytes_sign_toInt (b : Byte) : (joinBytes (if b.msb then 0xFF else 0x00) b).toInt = b.toInt := by
  have hb := b.isLt
  rw [BitVec.toInt_eq_toNat_cond, BitVec.toInt_eq_toNat_cond, joinBytes_toNat, BitVec.msb_eq_decide]
  by_cases h : 128 ≤ b.toNat
  · simp [h]; omega
  · simp [h]; omega

/-- Settles O33: B widened without sign, and with it. -/
theorem wideningBResult : Obligations.widening_b_result := by
  unfold Obligations.widening_b_result
  intro t
  refine ⟨⟨addBToX t, rfl, ?abx, touches_setX t _⟩, ⟨signExtendB t, rfl, ?sex, ?signs, rfl, ?frame⟩⟩
  case abx =>
    have hb := t.b.isLt
    simp only [addBToX, State.setX_x, BitVec.toNat_add, BitVec.toNat_setWidth]
    omega
  case sex => exact joinBytes_sign_toInt t.b
  case signs => exact signAndZero_setNZ _ _
  case frame => exact (touches_setA t _).trans (touches_setNZ _ _)

end Sys2Proof.Machine
end

section
/-! PROOFS. Register lists (44_stack_transfer.md R290 to R299) and the returns (46_system_misc.md R366, R367): a pull of a
list is a run of slots, and RTS and RTI are pulls of lists. -/

namespace Sys2Proof.Machine

/-! ## Push -/

theorem pushList_result (p : Ptr) (regs : Byte) (t : State) (hp : p = .s ∨ p = .u) :
    Pushed p (listImage p regs t) t (pushList p regs t) ∧
      Touches [ptrLoc p] [] (below (t.ptr p) (listCount regs)) t (pushList p regs t) := by
  refine ⟨?_, touches_pushList p regs t hp⟩
  have hbits : ∀ bit, (regs.getLsbD bit).toNat ≤ 1 := fun bit => Bool.toNat_le _
  have hlength : (listImage p regs t).length ≤ 65536 := by
    have h0 := hbits 0; have h1 := hbits 1; have h2 := hbits 2; have h3 := hbits 3
    have h4 := hbits 4; have h5 := hbits 5; have h6 := hbits 6; have h7 := hbits 7
    rw [length_listImage, listCount]
    omega
  rw [pushList_eq p regs t hp]
  exact pushed_pushImage p _ t hlength

/-- Settles O35: the list is one image. -/
theorem pushListResult : Obligations.push_list_result := by
  unfold Obligations.push_list_result
  intro regs t
  simp only [List.forall_mem_cons]
  exact ⟨⟨length_listImage .s regs t, _, rfl, pushList_result .s regs t (.inl rfl)⟩,
    ⟨length_listImage .u regs t, _, rfl, pushList_result .u regs t (.inr rfl)⟩, List.forall_mem_nil _⟩

/-! ## A run of slots -/

/-- One register of a pull: its bit in the list, its bytes, how it is pulled, and the bytes it then holds. -/
structure Slot where
  bit : Nat
  size : Nat
  pull : State → State
  bytes : State → List Byte

/-- The listed slots pulled in order. -/
def pullSlots (regs : Byte) : List Slot → State → State
  | [], t => t
  | slot :: rest, t => pullSlots regs rest (whenListed regs slot.bit slot.pull t)

/-- The bytes that the listed slots hold. -/
def slotImage (regs : Byte) : List Slot → State → List Byte
  | [], _ => []
  | slot :: rest, t => ifListed regs slot.bit (slot.bytes t) ++ slotImage regs rest t

/-- How many bytes the listed slots pull. -/
def slotCount (regs : Byte) : List Slot → Nat
  | [] => 0
  | slot :: rest => (if regs.getLsbD slot.bit then slot.size else 0) + slotCount regs rest

/-- The plain bytes that a slot pulls next. -/
def PlainFrom (t : State) (addr : Word) (n : Nat) : Prop := ∀ k, k < n → Plain t (addr + BitVec.ofNat 16 k)

theorem PlainFrom.left {t : State} {addr : Word} {m n : Nat} (h : PlainFrom t addr (m + n)) : PlainFrom t addr m :=
  fun k hk => h k (Nat.lt_add_right n hk)

theorem add_ofNat_add (addr : Word) (m n : Nat) :
    addr + BitVec.ofNat 16 m + BitVec.ofNat 16 n = addr + BitVec.ofNat 16 (m + n) := by
  rw [BitVec.add_assoc, BitVec.ofNat_add]

theorem PlainFrom.right {t : State} {addr : Word} {m n : Nat} (h : PlainFrom t addr (m + n)) :
    PlainFrom t (addr + BitVec.ofNat 16 m) n := fun k hk => by
  rw [add_ofNat_add]
  exact h (m + k) (Nat.add_lt_add_left hk m)

theorem plainFrom_iff {t : State} {addr : Word} {n : Nat} : PlainFrom t addr n ↔ ∀ b ∈ upFrom addr n, Plain t b := by
  simp [PlainFrom, upFrom]

/-- A slot moves the pointer by its bytes, and from plain memory it takes the next ones. -/
structure Slot.Sound (p : Ptr) (slot : Slot) : Prop where
  ptr : ∀ t, (slot.pull t).ptr p = t.ptr p + BitVec.ofNat 16 slot.size
  next : ∀ t t' n, Quiet t → PulledTo p t t' n → PlainFrom t (t.ptr p + BitVec.ofNat 16 n) slot.size →
    PulledTo p t (slot.pull t') (n + slot.size) ∧
      slot.bytes (slot.pull t') = t.peekBytes (t.ptr p + BitVec.ofNat 16 n) slot.size

/-- A later slot leaves what an earlier one has pulled. -/
def Slot.Before (slot later : Slot) : Prop := ∀ t, slot.bytes (later.pull t) = slot.bytes t

theorem whenListed_cases (regs : Byte) (bit : Nat) (op : State → State) (t : State) :
    whenListed regs bit op t = if regs.getLsbD bit then op t else t := rfl

theorem pullSlots_ptr {p : Ptr} {slots : List Slot} (hs : ∀ slot ∈ slots, slot.Sound p) (regs : Byte) (t : State) :
    (pullSlots regs slots t).ptr p = t.ptr p + BitVec.ofNat 16 (slotCount regs slots) := by
  induction slots generalizing t with
  | nil => simp [pullSlots, slotCount]
  | cons slot rest ih =>
    obtain ⟨hslot, hrest⟩ := List.forall_mem_cons.mp hs
    rw [pullSlots, ih hrest, slotCount, ← add_ofNat_add, whenListed_cases]
    split
    · rw [hslot.ptr]
    · simp

theorem pullSlots_keeps_bytes {slot : Slot} {later : List Slot} (h : ∀ s ∈ later, slot.Before s) (regs : Byte)
    (t : State) : slot.bytes (pullSlots regs later t) = slot.bytes t := by
  induction later generalizing t with
  | nil => rfl
  | cons s rest ih =>
    obtain ⟨hs, hrest⟩ := List.forall_mem_cons.mp h
    rw [pullSlots, ih hrest, whenListed_cases]
    split
    · exact hs t
    · rfl

/-- One slot of a run, listed or not. -/
theorem Slot.Sound.whenListed {p : Ptr} {slot : Slot} (h : slot.Sound p) (regs : Byte) {t t' : State} {n : Nat}
    (q : Quiet t) (hpulled : PulledTo p t t' n)
    (hplain : PlainFrom t (t.ptr p + BitVec.ofNat 16 n) (if regs.getLsbD slot.bit then slot.size else 0)) :
    PulledTo p t (whenListed regs slot.bit slot.pull t') (n + if regs.getLsbD slot.bit then slot.size else 0) ∧
      ifListed regs slot.bit (slot.bytes (Machine.whenListed regs slot.bit slot.pull t')) =
        t.peekBytes (t.ptr p + BitVec.ofNat 16 n) (if regs.getLsbD slot.bit then slot.size else 0) := by
  unfold Machine.whenListed ifListed
  cases hbit : regs.getLsbD slot.bit
  · exact ⟨hpulled, rfl⟩
  · rw [hbit] at hplain
    exact h.next t t' n q hpulled hplain

/-- A run of pulls from plain memory leaves the bytes there in the registers. -/
theorem pullSlots_image {p : Ptr} {slots : List Slot} (hs : ∀ slot ∈ slots, slot.Sound p)
    (hbefore : slots.Pairwise Slot.Before) (regs : Byte) {t t' : State} {n : Nat} (q : Quiet t)
    (hpulled : PulledTo p t t' n) (hplain : PlainFrom t (t.ptr p + BitVec.ofNat 16 n) (slotCount regs slots)) :
    slotImage regs slots (pullSlots regs slots t') =
      t.peekBytes (t.ptr p + BitVec.ofNat 16 n) (slotCount regs slots) := by
  induction slots generalizing t' n with
  | nil => rfl
  | cons slot rest ih =>
    obtain ⟨hslot, hrest⟩ := List.forall_mem_cons.mp hs
    obtain ⟨hfirst, hlater⟩ := List.pairwise_cons.mp hbefore
    rw [slotCount] at hplain
    obtain ⟨hnext, hbytes⟩ := hslot.whenListed regs q hpulled hplain.left
    have htail := ih hrest hlater hnext (by rw [← add_ofNat_add]; exact hplain.right)
    rw [slotImage, pullSlots, pullSlots_keeps_bytes hfirst, hbytes, htail, slotCount, State.peekBytes_append,
      add_ofNat_add]

/-! ## The slots of a list -/

theorem byteSlot_sound (p : Ptr) (bit : Nat) (put : State → Byte → State) (get : State → Byte)
    (hput : KeepsPull p put) (hget : ∀ t v, get (put t v) = v) :
    Slot.Sound p ⟨bit, 1, pullByteTo p put, fun t => [get t]⟩ where
  ptr t := by
    obtain ⟨hptr, -⟩ := hput (pull8 p t).2 (pull8 p t).1
    exact hptr.trans ((pull8_ptr p p t).trans (if_pos rfl))
  next t t' n q hpulled hplain := by
    obtain ⟨hpull, hnext⟩ := hpulled.byte q (by simpa using hplain 0 Nat.one_pos) put hput
    refine ⟨hnext, ?_⟩
    show [get (pullByteTo p put t')] = _
    rw [hpull, State.peekBytes_succ, State.peekBytes_zero, hget]

theorem wordSlot_sound (p : Ptr) (bit : Nat) (put : State → Word → State) (get : State → Word)
    (hput : KeepsPull p put) (hget : ∀ t v, get (put t v) = v) :
    Slot.Sound p ⟨bit, 2, pullWordTo p put, fun t => wordBytes (get t)⟩ where
  ptr t := by
    obtain ⟨hptr, -⟩ := hput (pull16 p t).2 (pull16 p t).1
    exact hptr.trans ((pull16_ptr p p t).trans (if_pos rfl))
  next t t' n q hpulled hplain := by
    obtain ⟨hpull, hnext⟩ := hpulled.word q (by simpa using hplain 0 Nat.two_pos)
      (by simpa using hplain 1 Nat.one_lt_two) put hput
    refine ⟨hnext, ?_⟩
    show wordBytes (get (pullWordTo p put t')) = _
    rw [hpull, State.peekBytes_two, hget]

/-- The slots of a list for a stack pointer (R101, R291). Bit 6 is pulled with what the instruction does after it. -/
def listSlots (p : Ptr) (after6 : State → State) : List Slot :=
  [⟨0, 1, pullByteTo p State.setCc, fun t => [t.cc]⟩, ⟨1, 1, pullByteTo p State.setA, fun t => [t.a]⟩,
    ⟨2, 1, pullByteTo p State.setB, fun t => [t.b]⟩, ⟨3, 1, pullByteTo p State.setDp, fun t => [t.dp]⟩,
    ⟨4, 2, pullWordTo p State.setX, fun t => wordBytes t.x⟩, ⟨5, 2, pullWordTo p State.setY, fun t => wordBytes t.y⟩,
    ⟨6, 2, pullWordTo p (fun t v => after6 (t.setPtr (otherStack p) v)), fun t => wordBytes (t.ptr (otherStack p))⟩,
    ⟨7, 2, pullWordTo p State.setPc, fun t => wordBytes t.pc⟩]

/-- What an instruction may do after bit 6: no register that is pulled, and nothing of memory. -/
structure KeepsRegisters (f : State → State) : Prop where
  bytes : ∀ t, (f t).cc = t.cc ∧ (f t).a = t.a ∧ (f t).b = t.b ∧ (f t).dp = t.dp
  ptr : ∀ t p, (f t).ptr p = t.ptr p
  memory : ∀ t, (f t).mem = t.mem ∧ (f t).agent = t.agent ∧ (f t).platform = t.platform

theorem keepsRegisters_id : KeepsRegisters id :=
  ⟨fun _ => ⟨rfl, rfl, rfl, rfl⟩, fun _ _ => rfl, fun _ => ⟨rfl, rfl, rfl⟩⟩

theorem keepsRegisters_armNmiIf (c : ArmCandidate) : KeepsRegisters (armNmiIf c) :=
  ⟨fun _ => ⟨rfl, rfl, rfl, rfl⟩, fun _ p => by cases p <;> rfl, fun _ => ⟨rfl, rfl, rfl⟩⟩

/-- What a register of a list keeps when it is pulled through a stack pointer that is another register. -/
theorem keepsPull_of_stacks {v : Type} {p : Ptr} (hp : p = .s ∨ p = .u) {put : State → v → State}
    (hs : ∀ t x, (put t x).s = t.s) (hu : ∀ t x, (put t x).u = t.u)
    (hmem : ∀ t x, (put t x).mem = t.mem ∧ (put t x).agent = t.agent ∧ (put t x).platform = t.platform) :
    KeepsPull p put := fun t x => by
  rcases hp with rfl | rfl
  · exact ⟨hs t x, hmem t x⟩
  · exact ⟨hu t x, hmem t x⟩

theorem otherStack_ne {p : Ptr} (hp : p = .s ∨ p = .u) : p ≠ otherStack p := by
  rcases hp with rfl | rfl <;> decide

theorem keepsPull_otherStack {p : Ptr} (hp : p = .s ∨ p = .u) {f : State → State} (hf : KeepsRegisters f) :
    KeepsPull p fun t v => f (t.setPtr (otherStack p) v) := fun t v => by
  obtain ⟨hm, ha, hpl⟩ := hf.memory (t.setPtr (otherStack p) v)
  refine ⟨?_, hm.trans (State.setPtr_mem _ _ _), ha.trans (State.setPtr_agent _ _ _),
    hpl.trans (State.setPtr_platform _ _ _)⟩
  rw [hf.ptr, State.ptr_setPtr, if_neg (otherStack_ne hp)]

theorem listSlots_sound {p : Ptr} (hp : p = .s ∨ p = .u) {f : State → State} (hf : KeepsRegisters f) :
    ∀ slot ∈ listSlots p f, slot.Sound p := by
  have plain : ∀ {v : Type} {put : State → v → State}, (∀ t x, (put t x).s = t.s) → (∀ t x, (put t x).u = t.u) →
      (∀ t x, (put t x).mem = t.mem ∧ (put t x).agent = t.agent ∧ (put t x).platform = t.platform) → KeepsPull p put :=
    keepsPull_of_stacks hp
  have hother : ∀ (t : State) v, (f (t.setPtr (otherStack p) v)).ptr (otherStack p) = v := fun t v => by
    rw [hf.ptr, State.ptr_setPtr, if_pos rfl]
  unfold listSlots
  simp only [List.forall_mem_cons]
  exact ⟨byteSlot_sound p 0 _ _ (plain (fun _ _ => rfl) (fun _ _ => rfl) fun _ _ => ⟨rfl, rfl, rfl⟩) fun _ _ => rfl,
    byteSlot_sound p 1 _ _ (plain (fun _ _ => rfl) (fun _ _ => rfl) fun _ _ => ⟨rfl, rfl, rfl⟩) fun _ _ => rfl,
    byteSlot_sound p 2 _ _ (plain (fun _ _ => rfl) (fun _ _ => rfl) fun _ _ => ⟨rfl, rfl, rfl⟩) fun _ _ => rfl,
    byteSlot_sound p 3 _ _ (plain (fun _ _ => rfl) (fun _ _ => rfl) fun _ _ => ⟨rfl, rfl, rfl⟩) fun _ _ => rfl,
    wordSlot_sound p 4 _ _ (plain (fun _ _ => rfl) (fun _ _ => rfl) fun _ _ => ⟨rfl, rfl, rfl⟩) fun _ _ => rfl,
    wordSlot_sound p 5 _ _ (plain (fun _ _ => rfl) (fun _ _ => rfl) fun _ _ => ⟨rfl, rfl, rfl⟩) fun _ _ => rfl,
    wordSlot_sound p 6 _ _ (keepsPull_otherStack hp hf) hother,
    wordSlot_sound p 7 _ _ (plain (fun _ _ => rfl) (fun _ _ => rfl) fun _ _ => ⟨rfl, rfl, rfl⟩) fun _ _ => rfl,
    List.forall_mem_nil _⟩

/-- What a pull of the other stack pointer and of PC leaves: the registers pulled before it. -/
theorem listSlots_before {p : Ptr} (hp : p = .s ∨ p = .u) {f : State → State} (hf : KeepsRegisters f) :
    (listSlots p f).Pairwise Slot.Before := by
  have hbytes := hf.bytes
  have hx : ∀ t, (f t).x = t.x := fun t => hf.ptr t .x
  have hy : ∀ t, (f t).y = t.y := fun t => hf.ptr t .y
  rcases hp with rfl | rfl <;>
    simp [listSlots, Slot.Before, pullByteTo, pullWordTo, otherStack, State.setPtr, State.ptr, hbytes, hx, hy]

theorem slotImage_listSlots (p : Ptr) (f : State → State) (regs : Byte) (t : State) :
    slotImage regs (listSlots p f) t = listImage p regs t := by
  simp only [listSlots, slotImage, listImage, List.append_assoc, List.append_nil]

theorem slotCount_listSlots (p : Ptr) (f : State → State) (regs : Byte) :
    slotCount regs (listSlots p f) = listCount regs := by
  have hbit : ∀ bit, (if regs.getLsbD bit then 2 else 0) = 2 * (regs.getLsbD bit).toNat := fun bit => by
    cases regs.getLsbD bit <;> rfl
  have hbit' : ∀ bit, (if regs.getLsbD bit then 1 else 0) = (regs.getLsbD bit).toNat := fun bit => by
    cases regs.getLsbD bit <;> rfl
  simp only [listSlots, slotCount, listCount, hbit, hbit']
  omega

/-- PULS is the run of its slots. -/
theorem pull_s_eq (regs : Byte) (t : State) :
    pullPc .s regs (pullListed .s regs t) = pullSlots regs (listSlots .s id) t := rfl

theorem whenListed_whenListed (regs : Byte) (bit : Nat) (f g : State → State) (t : State) :
    whenListed regs bit g (whenListed regs bit f t) = whenListed regs bit (fun t => g (f t)) t := by
  unfold whenListed
  split <;> rfl

/-- PULU is the run of its slots, S arming NMI as it is written. -/
theorem pull_u_eq (regs : Byte) (t : State) :
    pullPc .u regs (whenListed regs 6 (armNmiIf .puluS) (pullListed .u regs t)) =
      pullSlots regs (listSlots .u (armNmiIf .puluS)) t := by
  unfold pullListed
  rw [whenListed_whenListed]
  rfl

/-- A pull of a list through a stack pointer. -/
theorem pullSlots_list {p : Ptr} (hp : p = .s ∨ p = .u) {f : State → State} (hf : KeepsRegisters f) (regs : Byte)
    (t : State) :
    (pullSlots regs (listSlots p f) t).ptr p = t.ptr p + BitVec.ofNat 16 (listCount regs) ∧
      (Quiet t → (∀ addr ∈ upFrom (t.ptr p) (listCount regs), Plain t addr) →
        listImage p regs (pullSlots regs (listSlots p f) t) = t.peekBytes (t.ptr p) (listCount regs)) := by
  have hsound := listSlots_sound hp hf
  refine ⟨?_, fun q hplain => ?_⟩
  · rw [pullSlots_ptr hsound, slotCount_listSlots]
  · have himage := pullSlots_image hsound (listSlots_before hp hf) regs q (PulledTo.start p t) (n := 0) (by
      rw [slotCount_listSlots]
      simpa using plainFrom_iff.mpr hplain)
    rw [slotImage_listSlots, slotCount_listSlots] at himage
    simpa using himage

theorem pc_mem_listLocs {p : Ptr} {regs : Byte} {l : Loc} (h : l ∈ if regs.getLsbD 7 then [Loc.pc] else []) :
    l ∈ listLocs p regs := List.mem_append_right _ h

theorem touches_pullS (regs : Byte) (t : State) :
    Touches (ptrLoc .s :: listLocs .s regs) (if regs.getLsbD 0 then allFlags else []) [] t
      (pullPc .s regs (pullListed .s regs t)) := by
  refine ((touches_pullListed .s regs t).trans (touches_pullPc .s regs _)).mono ?_ (by simp) fun _ m => m
  simp only [List.mem_append, List.mem_cons]
  rintro l ((h | h) | (h | h))
  · exact .inl h
  · exact .inr h
  · exact .inl h
  · exact .inr (pc_mem_listLocs h)

/-- A pulled S may arm NMI. -/
theorem touches_pullU (regs : Byte) (t : State) :
    Touches (ptrLoc .u :: (if regs.getLsbD 6 then [Loc.nmiArmed] else []) ++ listLocs .u regs)
      (if regs.getLsbD 0 then allFlags else []) [] t
      (pullPc .u regs (whenListed regs 6 (armNmiIf .puluS) (pullListed .u regs t))) := by
  have harm := touches_whenListed regs 6 (armNmiIf .puluS) (pullListed .u regs t) .u [.nmiArmed] [] fun t =>
    (touches_armNmiIf .puluS t).mono (by simp) (by simp) (by simp)
  refine (((touches_pullListed .u regs t).trans harm).trans (touches_pullPc .u regs _)).mono ?_ (by simp) (by simp)
  simp only [List.mem_append, List.mem_cons]
  rintro l (((h | h) | (h | h)) | (h | h))
  · exact .inl (.inl h)
  · exact .inr h
  · exact .inl (.inl h)
  · exact .inl (.inr h)
  · exact .inl (.inl h)
  · exact .inr (pc_mem_listLocs h)

theorem nmiArmed_not_mem_listLocs (p : Ptr) (regs : Byte) : Loc.nmiArmed ∉ listLocs p regs := by
  have hother : Loc.nmiArmed ≠ ptrLoc (otherStack p) := by cases p <;> decide
  simp [listLocs, hother]

theorem whenListed_nmiArmed {regs : Byte} {bit : Nat} {op : State → State} {t : State} (hop : (op t).nmiArmed = true)
    (h : t.nmiArmed = true) : (whenListed regs bit op t).nmiArmed = true := by
  unfold whenListed
  split <;> assumption

/-- Settles O36: both pulls are the run of their slots. -/
theorem pullListResult : Obligations.pull_list_result := by
  unfold Obligations.pull_list_result
  intro regs t
  simp only [List.forall_mem_cons]
  refine ⟨⟨_, rfl, ?_⟩, ⟨_, rfl, ?_⟩, List.forall_mem_nil _⟩
  · obtain ⟨hptr, himage⟩ := pullSlots_list (.inl rfl) keepsRegisters_id regs t
    rw [← pull_s_eq] at hptr himage
    have htouches := touches_pullS regs t
    refine ⟨hptr, himage, fun harmed => ?_, by simpa using htouches⟩
    rw [htouches.nmiArmed (by simp [ptrLoc, nmiArmed_not_mem_listLocs]), harmed]
  · obtain ⟨hptr, himage⟩ := pullSlots_list (.inr rfl) (keepsRegisters_armNmiIf .puluS) regs t
    rw [← pull_u_eq] at hptr himage
    refine ⟨hptr, himage, fun harmed => ?_, by simpa using touches_pullU regs t⟩
    have hlisted : (pullListed .u regs t).nmiArmed = true := by
      rw [(touches_pullListed .u regs t).nmiArmed (by simp [ptrLoc, nmiArmed_not_mem_listLocs]), harmed]
    have harm := whenListed_nmiArmed (regs := regs) (bit := 6) (armNmiIf_keeps .puluS _ hlisted) hlisted
    rw [(touches_pullPc .u regs _).nmiArmed (by split <;> simp [ptrLoc]), harm]

/-! ## Returns -/

theorem cc_eq_of_flags {t t' : State} (h : ∀ k, t'.flag k = t.flag k) : t'.cc = t.cc := cc_ext h

/-- The part of RTI that follows the pull of CC, by the E bit. -/
def pullAfterCc (t : State) : State := pullWordTo .s State.setPc (if t.flag .e then pullEntire t else t)

theorem returnFromException_eq (t : State) : returnFromException t = pullAfterCc (pullByteTo .s State.setCc t) := rfl

theorem pullAfterCc_flag (t : State) (k : Flag) : (pullAfterCc t).flag k = t.flag k := by
  have hpc := (touches_pullWordTo .s State.setPc [.pc] (if t.flag .e then pullEntire t else t) touches_setPc).2.1 k
    List.not_mem_nil
  unfold pullAfterCc
  rw [hpc]
  split
  · exact (touches_pullEntire t).2.1 k List.not_mem_nil
  · rfl

theorem pullCc_cc {t : State} (q : Quiet t) (h : Plain t t.s) : (pullByteTo .s State.setCc t).cc = t.peek t.s := by
  unfold pullByteTo
  rw [pull8_plain .s t q h]
  rfl

/-- With E set RTI pulls the whole list (46_system_misc.md R366). -/
theorem returnFromException_entire {t : State} (h : (pullByteTo .s State.setCc t).flag .e = true) :
    returnFromException t = pullSlots 0xFF (listSlots .s id) t := by
  rw [returnFromException_eq, pullAfterCc, if_pos h]
  rfl

/-- With E clear it pulls CC and PC. -/
theorem returnFromException_subset {t : State} (h : (pullByteTo .s State.setCc t).flag .e = false) :
    returnFromException t = pullSlots 0x81 (listSlots .s id) t := by
  rw [returnFromException_eq, pullAfterCc, if_neg (by simp [h])]
  rfl

theorem listImage_entire (t : State) : listImage .s 0xFF t = entireImage t.cc t := rfl

theorem listImage_subset (t : State) : listImage .s 0x81 t = [t.cc] ++ wordBytes t.pc := rfl

theorem returnFromSubroutine_pc {t : State} (q : Quiet t) (h : Plain t t.s) (h' : Plain t (t.s + 1)) :
    (pullWordTo .s State.setPc t).pc = t.peekWord t.s := by
  unfold pullWordTo
  rw [pull16_plain .s t q h h']
  rfl

/-- Settles O44: RTS is one pull, and RTI is the pull of one of two lists. -/
theorem returnResult : Obligations.return_result := by
  unfold Obligations.return_result
  intro t
  refine ⟨⟨_, rfl, ?_, fun q h h' => returnFromSubroutine_pc q h h', touches_pullWordTo .s _ [.pc] t touches_setPc⟩,
    ⟨_, rfl, ?cc, ?entire, ?subset⟩⟩
  · exact (pull16_ptr .s .s t).trans (if_pos rfl)
  case cc =>
    intro q h
    rw [returnFromException_eq, cc_eq_of_flags (pullAfterCc_flag (pullByteTo .s State.setCc t)), pullCc_cc q h]
  case entire =>
    intro he
    rw [returnFromException_eq, pullAfterCc_flag] at he
    obtain ⟨hptr, himage⟩ := pullSlots_list (.inl rfl) keepsRegisters_id 0xFF t
    rw [← returnFromException_entire he] at hptr himage
    refine ⟨hptr, fun q hplain => ?_, (touches_returnFromException t).mono (by simp) (fun _ m => m) fun _ m => m⟩
    exact himage q hplain
  case subset =>
    intro he
    rw [returnFromException_eq, pullAfterCc_flag] at he
    obtain ⟨hptr, himage⟩ := pullSlots_list (.inl rfl) keepsRegisters_id 0x81 t
    rw [← returnFromException_subset he] at hptr himage
    refine ⟨hptr, fun q hplain => himage q hplain, ?_⟩
    rw [returnFromException_subset he, ← pull_s_eq]
    exact touches_pullS 0x81 t

end Sys2Proof.Machine
end

section
/-! PROOFS. Transfers between registers (44_stack_transfer.md R296 to R298), branches and calls (45_branch.md R310 to
R365), and the order of two numbers as the flags of their difference give it. -/

namespace Sys2Proof.Machine

/-! ## TFR and EXG -/

theorem readReg_toNat (r : Reg) (t : State) : (readReg r t).toNat = regNumber r t := by
  have narrow : ∀ v : Byte, (v.setWidth 16).toNat = v.toNat := fun v => by
    rw [BitVec.toNat_setWidth]
    have := v.isLt
    omega
  cases r with
  | d => exact State.d_toNat t
  | a | b | cc | dp => exact narrow _
  | x | y | u | s | pc => rfl

theorem regNumber_lt {r : Reg} (h : r.isWide = false) (t : State) : regNumber r t < 256 := by
  cases r with
  | a | b | cc | dp => exact BitVec.isLt _
  | _ => cases h

/-- What a register holds after a write: an 8-bit register takes the low byte. -/
theorem regNumber_writeReg (r : Reg) (v : Word) (t : State) :
    regNumber r (writeReg r v t) = if r.isWide then v.toNat else v.toNat % 256 := by
  cases r with
  | d =>
    show 256 * (highByte v).toNat + (lowByte v).toNat = v.toNat
    rw [highByte_toNat, lowByte_toNat]
    omega
  | a | b | cc | dp => exact lowByte_toNat v
  | x | y | u | s | pc => rfl

/-- A register takes the value of one of its size. -/
theorem regNumber_transfer {p q : Reg} (h : p.sameSize q = true) (t u : State) :
    regNumber q (writeReg q (readReg p t) u) = regNumber p t := by
  rw [regNumber_writeReg, readReg_toNat]
  split
  · rfl
  · rename_i hq
    have hsize : p.isWide = q.isWide := beq_iff_eq.mp h
    exact Nat.mod_eq_of_lt (regNumber_lt (by simpa [hsize] using hq) t)

theorem regLocs_disjoint (p q : Reg) : p ≠ q → p.sameSize q = true → ∀ l ∈ regLocs p, l ∉ regLocs q := by
  cases p <;> cases q <;> decide

theorem regNumber_congr {r : Reg} {t t' : State} (hlocs : ∀ l ∈ regLocs r, t'.look l = t.look l)
    (hcc : r = .cc → t'.cc = t.cc) : regNumber r t' = regNumber r t := by
  cases r with
  | cc => exact congrArg BitVec.toNat (hcc rfl)
  | d => exact congrArg₂ (256 * · + ·) (hlocs .a (by decide)) (hlocs .b (by decide))
  | a | b | dp | x | y | u | s | pc => exact hlocs _ List.mem_cons_self

theorem regFlags_eq_nil {r : Reg} (h : r ≠ .cc) : regFlags r = [] := by
  cases r with
  | cc => exact absurd rfl h
  | _ => rfl

/-- A write to a register leaves the others of its size. -/
theorem regNumber_writeReg_other {p q : Reg} (hne : p ≠ q) (h : p.sameSize q = true) (v : Word) (t : State) :
    regNumber p (writeReg q v t) = regNumber p t := by
  obtain ⟨hlocs, hflags, -⟩ := touches_writeReg q v t
  refine regNumber_congr (fun l hl => hlocs l (regLocs_disjoint p q hne h l hl)) fun hp => ?_
  have hq : q ≠ .cc := fun hq => hne (hp.trans hq.symm)
  rw [regFlags_eq_nil hq] at hflags
  exact cc_eq_of_flags fun k => hflags k List.not_mem_nil

theorem writeReg_nmiArmed (r : Reg) (v : Word) (t : State) :
    (writeReg r v t).nmiArmed = (t.nmiArmed || r == .s) := by
  cases r with
  | s => exact (Bool.or_true _).symm
  | _ => exact (Bool.or_false _).symm

theorem regNumber_exchange {p q : Reg} (h : p.sameSize q = true) (t : State) :
    regNumber p (writeReg q (readReg p t) (writeReg p (readReg q t) t)) = regNumber q t := by
  have hback : q.sameSize p = true := beq_iff_eq.mpr (beq_iff_eq.mp h).symm
  by_cases hpq : p = q
  · subst hpq
    exact regNumber_transfer h t _
  · rw [regNumber_writeReg_other hpq h, regNumber_transfer hback]

/-- Settles O37: TFR is one write, EXG two, of values read before them. -/
theorem transferAndExchangeResult : Obligations.transfer_and_exchange_result := by
  unfold Obligations.transfer_and_exchange_result
  intro p q t h
  refine ⟨⟨_, execTfr_of_sameSize p q t h, regNumber_transfer h t t, fun hq => ?_, touches_writeReg q _ t⟩,
    ⟨_, execExg_of_sameSize p q t h, regNumber_exchange h t, regNumber_transfer h t _, fun hs => ?_,
      (touches_writeReg p _ t).trans (touches_writeReg q _ _)⟩⟩
  · simp [writeReg_nmiArmed, hq]
  · rcases hs with hs | hs <;> simp [writeReg_nmiArmed, hs]

/-! ## Branches -/

/-- A short branch of a code is `branchShort` of a condition that agrees with the code's. -/
theorem exec_shortBranches {code : Nat} {off : Byte} {i : Instr} (h : i ∈ shortBranches code off) (t : State) :
    ∃ k, exec i t = .next (branchShort k off t) ∧ ∀ n z v c, condHolds k n z v c = branchTaken code n z v c := by
  unfold shortBranches at h
  split at h
  case h_17 => cases h
  case h_5 | h_6 => rcases List.mem_pair.mp h with rfl | rfl <;> exact ⟨_, rfl, by decide⟩
  all_goals
    obtain rfl := List.mem_singleton.mp h
    exact ⟨_, rfl, by decide⟩

theorem exec_longBranches {code : Nat} {off : Word} {i : Instr} (h : i ∈ longBranches code off) (t : State) :
    ∃ k, exec i t = .next (branchLong k off t) ∧ ∀ n z v c, condHolds k n z v c = branchTaken code n z v c := by
  unfold longBranches at h
  split at h
  case h_17 => cases h
  case h_5 | h_6 => rcases List.mem_pair.mp h with rfl | rfl <;> exact ⟨_, rfl, by decide⟩
  all_goals
    obtain rfl := List.mem_singleton.mp h
    exact ⟨_, rfl, by decide⟩

/-- PC after a branch to a target, by its condition. -/
theorem branch_pc {taken : Bool} {t : State} {target : Word} {off : Int}
    (h : (target.toNat : Int) = (t.pc.toNat + off) % 65536) :
    let t' := t.setPc (if taken then target else t.pc)
    t' = t.setPc t'.pc ∧ (taken = true → (t'.pc.toNat : Int) = (t.pc.toNat + off) % 65536) ∧
      (taken = false → t'.pc = t.pc) := by
  refine ⟨rfl, fun ht => ?_, fun ht => ?_⟩
  · rw [ht]; exact h
  · rw [ht]; rfl

/-- Settles O40: each branch is `branchShort` or `branchLong` of its condition. -/
theorem branchResult : Obligations.branch_result := by
  unfold Obligations.branch_result
  refine ⟨fun code off i t h => ?_, fun code off i t h => ?_⟩
  · obtain ⟨k, hexec, hcond⟩ := exec_shortBranches h t
    refine ⟨_, hexec, ?_⟩
    rw [← hcond, branchShort_eq]
    exact branch_pc (addOffset8_toNat t.pc off)
  · obtain ⟨k, hexec, hcond⟩ := exec_longBranches h t
    refine ⟨_, hexec, ?_⟩
    rw [← hcond, branchLong_eq]
    exact branch_pc (add_word_toNat t.pc off)

/-! ## The order of two numbers after a difference -/

/-- The conditions order two words as unsigned and as signed numbers (R310). -/
def Orders {w : Nat} (x m : BitVec w) (t' : State) : Prop :=
  (takes .higher t' = true ↔ m.toNat < x.toNat) ∧ (takes .lowerOrSame t' = true ↔ x.toNat ≤ m.toNat) ∧
  (takes .carryClear t' = true ↔ m.toNat ≤ x.toNat) ∧ (takes .carrySet t' = true ↔ x.toNat < m.toNat) ∧
  (takes .notEqual t' = true ↔ x ≠ m) ∧ (takes .equal t' = true ↔ x = m) ∧
  (takes .greaterOrEqual t' = true ↔ m.toInt ≤ x.toInt) ∧ (takes .less t' = true ↔ x.toInt < m.toInt) ∧
  (takes .greater t' = true ↔ m.toInt < x.toInt) ∧ (takes .lessOrEqual t' = true ↔ x.toInt ≤ m.toInt)

/-- Z, C and the sign that N and V give are enough for the ten conditions. -/
theorem orders_of_flags {w : Nat} {x m : BitVec w} {t' : State} (hz : t'.flag .z = decide (x = m))
    (hc : t'.flag .c = decide (x.toNat < m.toNat))
    (hs : (t'.flag .n ^^ t'.flag .v) = decide (x.toInt < m.toInt)) : Orders x m t' := by
  have heq : x = m ↔ x.toNat = m.toNat := BitVec.toNat_inj.symm
  have heqi : x = m ↔ x.toInt = m.toInt := BitVec.toInt_inj.symm
  refine ⟨?_, ?_, ?_, ?_, ?_, ?_, ?_, ?_, ?_, ?_⟩ <;>
    simp only [takes, condHolds, hz, hc, hs, Bool.not_eq_true', Bool.or_eq_true, Bool.or_eq_false_iff,
      decide_eq_true_eq, decide_eq_false_iff_not]
  · rw [heq]; omega
  · rw [heq]; omega
  · omega
  · omega
  · rw [heqi]; omega
  · rw [heqi]; omega

/-- The sign of a difference of signed numbers, as its top bit and its overflow give it. -/
theorem sign_of_difference {p x m d : Nat} {sx sm : Int} {n v : Bool} (hp : p = 128 ∨ p = 32768) (hx : x < 2 * p)
    (hm : m < 2 * p) (hd : (d : Int) = ((x : Int) - m) % (2 * p : Nat)) (hsx : sx = if x < p then (x : Int) else x - 2 * p)
    (hsm : sm = if m < p then (m : Int) else m - 2 * p) (hn : n = decide (p ≤ d))
    (hv : v = true ↔ sx - sm < -p ∨ p ≤ sx - sm) : (n ^^ v) = decide (sx < sm) := by
  have hv' : v = decide (sx - sm < -p ∨ p ≤ sx - sm) := by rw [Bool.eq_iff_iff, hv, decide_eq_true_iff]
  subst hn hv'
  rw [Bool.eq_iff_iff, Bool.xor_iff_ne, ne_eq, decide_eq_decide, decide_eq_true_iff]
  rcases hp with rfl | rfl <;> split at hsx <;> split at hsm <;> omega

/-- The flags of a difference of two bytes or of two words order them. -/
theorem orders_of_difference {w p : Nat} (hw : w = 8 ∧ p = 128 ∨ w = 16 ∧ p = 32768) {x m d : BitVec w} {t' : State}
    (hd : (d.toNat : Int) = ((x.toNat : Int) - m.toNat) % (2 * p : Nat)) (hflags : SignAndZero d t')
    (hv : t'.flag .v = true ↔ x.toInt - m.toInt < -p ∨ p ≤ x.toInt - m.toInt)
    (hc : t'.flag .c = decide (x.toNat < m.toNat)) : Orders x m t' := by
  have hsize : 2 ^ w = 2 * p ∧ 2 ^ (w - 1) = p ∧ (p = 128 ∨ p = 32768) := by
    rcases hw with ⟨rfl, rfl⟩ | ⟨rfl, rfl⟩ <;> decide
  obtain ⟨hfull, hhalf, hp⟩ := hsize
  have hx := x.isLt
  have hm := m.isLt
  have signed : ∀ y : BitVec w, y.toInt = if y.toNat < p then (y.toNat : Int) else y.toNat - 2 * p := fun y => by
    rw [BitVec.toInt_eq_toNat_cond, hfull]
    split <;> split <;> omega
  obtain ⟨hn, hz⟩ := hflags
  rw [← BitVec.msb, BitVec.msb_eq_decide, hhalf] at hn
  rw [hfull] at hx hm
  refine orders_of_flags ?_ hc (sign_of_difference hp hx hm hd (signed x) (signed m) hn hv)
  rw [hz, decide_eq_decide, ← BitVec.toNat_inj]
  rcases hp with rfl | rfl <;> omega

theorem orders_of_differenceFlags {x m d : Byte} {t' : State} (h : DifferenceFlags x m false d t') : Orders x m t' := by
  obtain ⟨hd, hflags, hv, hc⟩ := h
  exact orders_of_difference (.inl ⟨rfl, rfl⟩) (by simpa using hd) hflags (by simpa [OutOfRange] using hv)
    (by simpa using hc)

theorem orders_of_wideDifferenceFlags {x m d : Word} {t' : State} (h : WideDifferenceFlags x m d t') : Orders x m t' := by
  obtain ⟨hd, hflags, hv, hc⟩ := h
  exact orders_of_difference (.inr ⟨rfl, rfl⟩) hd hflags hv hc

/-- Settles O41: the flags are those of a difference. -/
theorem compareThenBranchOrders : Obligations.compare_then_branch_orders := by
  unfold Obligations.compare_then_branch_orders
  refine ⟨fun o t t' => ?byte, fun o t t' => ?word⟩
  case byte =>
    have compared : ∀ r, Orders (t.acc r) (operand8 o t).1 (cmpAcc r o t) := fun r =>
      orders_of_differenceFlags (differenceFlags_cmpAcc r o t)
    have subtracted : ∀ r, Orders (t.acc r) (operand8 o t).1 (subAcc r false o t) := fun r =>
      orders_of_differenceFlags (subtractsFrom_subAcc r false o t).1
    simp only [List.forall_mem_cons]
    refine ⟨fun h => ?_, fun h => ?_, fun h => ?_, fun h => ?_, List.forall_mem_nil _⟩ <;> cases h
    · exact compared .a
    · exact compared .b
    · exact subtracted .a
    · exact subtracted .b
  case word =>
    have compared : ∀ r, Orders ((operand16 o t).2.wide r) (operand16 o t).1 (cmpWide r o t) := fun r =>
      orders_of_wideDifferenceFlags (wideDifferenceFlags_cmpWide r o t)
    have subtracted : Orders ((operand16 o t).2.wide .d) (operand16 o t).1 (subWide .d o t) :=
      orders_of_wideDifferenceFlags (wideDifferenceFlags_setNZVC _ _ _)
    simp only [List.forall_mem_cons]
    refine ⟨fun h => ?_, fun h => ?_, fun h => ?_, fun h => ?_, fun h => ?_, fun h => ?_, List.forall_mem_nil _⟩ <;> cases h
    · exact compared .d
    · exact compared (.ptr .x)
    · exact compared (.ptr .y)
    · exact compared (.ptr .u)
    · exact compared (.ptr .s)
    · exact subtracted

/-! ## Calls -/

theorem pushed_callTo (target : Word) (t : State) : Pushed .s (wordBytes t.pc) t (callTo target t) :=
  (pushed_pushImage .s (wordBytes t.pc) t (by simp [wordBytes])).ofTouches rfl
    (fun q => ((touches_pushImage .s (wordBytes t.pc) t).2.2.2.2 q).1) (touches_setPc _ target)

theorem memEA_pc (m : Mem) (t : State) : (memEA m t).2.pc = t.pc := by
  have hpc : Loc.pc ∉ memWrites m := by
    cases m with
    | idx i => exact not_mem_indexedWrites (by intro r; cases r <;> decide) i
    | dir v | ext v => exact List.not_mem_nil
  exact BitVec.eq_of_toNat_eq ((touches_memEA m t).1 .pc hpc)

theorem MemLeaves.ofTouches {dest locs : List Loc} {flags : List Flag} {stores : List Word} {m : Mem} {t t' : State}
    (h : Touches locs flags stores (memEA m t).2 t') (hlocs : ∀ r, ptrLoc r ∉ dest → ptrLoc r ∉ locs) :
    MemLeaves dest m t t' := by
  cases m with
  | idx i => exact fun r _ hr => h.ptr r (hlocs r hr)
  | dir v | ext v => exact trivial

theorem ptrLoc_ne_pc (r : Ptr) : ptrLoc r ≠ .pc := by cases r <;> decide

/-- Settles O42: a call is a push and a jump, after the address phase. -/
theorem callAndJumpResult : Obligations.call_and_jump_result := by
  unfold Obligations.call_and_jump_result
  refine ⟨fun off t => ⟨_, rfl, addOffset8_toNat t.pc off, pushed_callTo _ t, touches_callTo _ t⟩,
    fun off t => ⟨_, rfl, add_word_toNat t.pc off, pushed_callTo _ t, touches_callTo _ t⟩,
    fun m t => ⟨_, rfl, rfl, ?pushed, ?leaves, ?frame⟩,
    fun m t => ⟨_, rfl, rfl, MemLeaves.ofTouches (touches_setPc _ _) (by simp [ptrLoc_ne_pc]), ?jump⟩⟩
  case pushed =>
    rw [← memEA_pc m t]
    exact pushed_callTo _ _
  case leaves => exact MemLeaves.ofTouches (touches_callTo _ _) (by simp [ptrLoc_ne_pc])
  case frame =>
    exact ((touches_memEA m t).trans (touches_callTo _ _)).mono
      (by simp only [List.mem_append, List.mem_cons]; tauto) (by simp) (by simp)
  case jump => exact ((touches_memEA m t).trans (touches_setPc _ _)).mono (by simp [or_comm]) (by simp) (by simp)

end Sys2Proof.Machine
end

section
/-! PROOFS. The condition codes, the software interrupts and their return (46_system_misc.md R360 to R371), the two
waits, HALT and the reset sequence (60_exceptions.md R417 to R419, 70_reset_and_hazards.md R461). -/

namespace Sys2Proof.Machine

/-! ## ANDCC, ORCC, NOP, SYNC -/

/-- Settles O43: CC is combined with the byte bit by bit. -/
theorem ccNopSyncResult : Obligations.cc_nop_sync_result := fun _ _ =>
  ⟨⟨_, rfl, rfl, fun _ => BitVec.getLsbD_and⟩, ⟨_, rfl, rfl, fun _ => BitVec.getLsbD_or⟩, rfl, rfl⟩

/-! ## Software interrupts -/

/-- Settles O45: the shared entry of the entire state, with the masks and the vector of each. -/
theorem softwareInterruptResult : Obligations.software_interrupt_result := fun t =>
  ⟨⟨_, rfl, entersEntire_takeException true true vectorSwi t⟩, ⟨_, rfl, entersEntire_takeException false false vectorSwi2 t⟩,
    ⟨_, rfl, entersEntire_takeException false false vectorSwi3 t⟩⟩

/-- The entire state of a frame is one image, with E set in CC before it. -/
theorem pushFrame_entire_eq (t : State) :
    pushFrame .entire t = pushImage .s (entireImage (writeFlag t.cc .e true) t) (t.setFlag .e true) := by
  rw [pushFrame, stackEntire_eq]
  rfl

/-- CC written with E set, an image pushed, and the wait begun. -/
theorem cwai_of_image (c : Byte) (image : List Byte) (hn : image.length ≤ 65536) (t : State) :
    let t' := (pushImage .s image ((t.setCc c).setFlag .e true)).setRun .cwaiWaiting
    t'.cc = writeFlag c .e true ∧ t'.run = .cwaiWaiting ∧ Pushed .s image t t' ∧
      Touches [.s, .run] allFlags (below t.s image.length) t t' := by
  have hpush := touches_pushImage .s image ((t.setCc c).setFlag .e true)
  refine ⟨pushImage_cc _ _ _, rfl, ?pushed, ?frame⟩
  case pushed =>
    exact Pushed.ofTouches (pushed_pushImage .s image ((t.setCc c).setFlag .e true) hn) rfl
      (fun q => (hpush.2.2.2.2 q).1) (touches_setRun _ .cwaiWaiting)
  case frame =>
    have hcc := (touches_setCc t c).andThen ((touches_setFlag _ .e true).mono (by simp) (by simp [allFlags]) (by simp))
    exact ((hcc.trans hpush).trans (touches_setRun _ .cwaiWaiting)).mono (by simp [ptrLoc]) (by simp)
      fun _ m => by simpa [State.ptr] using m

theorem length_entireImage (c : Byte) (t : State) : (entireImage c t).length = 12 := rfl

/-- Settles O46: CC is written, then the image pushed, then the run state. -/
theorem cwaiResult : Obligations.cwai_result := by
  unfold Obligations.cwai_result
  intro v t
  have h := cwai_of_image (t.cc &&& v) (entireImage (writeFlag (t.cc &&& v) .e true) t) (by simp [length_entireImage]) t
  have hexec : exec (.cwai v) t = .next ((pushFrame .entire (t.setCc (t.cc &&& v))).setRun .cwaiWaiting) := rfl
  rw [pushFrame_entire_eq] at hexec
  exact ⟨_, hexec, h⟩

/-! ## RTI after SWI -/

theorem wordBytes_injective {v w : Word} (h : wordBytes v = wordBytes w) : v = w := by
  obtain ⟨hhigh, hlow⟩ := List.cons.inj h
  rw [← joinBytes_highByte_lowByte v, ← joinBytes_highByte_lowByte w, hhigh, (List.cons.inj hlow).1]

/-- An image of the entire state gives its registers. -/
theorem entireImage_injective {c c' : Byte} {t t' : State} (h : entireImage c t = entireImage c' t') :
    c = c' ∧ t.a = t'.a ∧ t.b = t'.b ∧ t.dp = t'.dp ∧ t.x = t'.x ∧ t.y = t'.y ∧ t.u = t'.u ∧ t.pc = t'.pc := by
  have word : ∀ {v w : Word}, highByte v = highByte w → lowByte v = lowByte w → v = w := fun h h' =>
    wordBytes_injective (by rw [wordBytes, wordBytes, h, h'])
  simp only [entireImage, wordBytes, List.cons_append, List.nil_append, List.cons.injEq, and_true] at h
  obtain ⟨hc, ha, hb, hdp, hx, hx', hy, hy', hu, hu', hpc, hpc'⟩ := h
  exact ⟨hc, ha, hb, hdp, word hx hx', word hy hy', word hu hu', word hpc hpc'⟩

/-- The bytes pulled are those pushed. -/
theorem upFrom_pushed {addr b : Word} {n : Nat} (h : b ∈ upFrom (addr - BitVec.ofNat 16 n) n) : b ∈ below addr n := by
  obtain ⟨k, hk, rfl⟩ : ∃ k, k < n ∧ addr - BitVec.ofNat 16 n + BitVec.ofNat 16 k = b := by simpa [upFrom] using h
  refine mem_below.mpr ⟨n - 1 - k, by omega, ?_⟩
  have hn : BitVec.ofNat 16 n = BitVec.ofNat 16 (n - 1 - k + 1) + BitVec.ofNat 16 k := by
    rw [← BitVec.ofNat_add]
    congr 1
    omega
  rw [hn]
  generalize BitVec.ofNat 16 k = j
  generalize BitVec.ofNat 16 (n - 1 - k + 1) = m
  bv_omega

theorem exec_swi {t t1 : State} (h : exec .swi t = .next t1) : t1 = takeException .entire true true vectorSwi t :=
  (Host.Outcome.next.inj (show Host.Outcome.next _ = _ from h)).symm

/-- RTI pulls the image of an entire state that stands at S in plain memory with E set. -/
theorem rti_of_entireImage {t t1 : State} {c : Byte} (q : Quiet t1) (hplain : ∀ addr ∈ upFrom t1.s 12, Plain t1 addr)
    (himage : t1.peekBytes t1.s 12 = entireImage c t) (he : c.getLsbD Flag.e.bit = true) :
    Completes (exec .rti t1) (fun t2 => t2.cc = c ∧ t2.s = t1.s + 12 ∧ entireImage c t2 = entireImage c t ∧
      Touches [.a, .b, .dp, .x, .y, .u, .s, .pc] allFlags [] t1 t2) := by
  obtain ⟨-, ⟨t2, hexec, hcc, hentire, -⟩⟩ := returnResult t1
  have hfirst : t1.peek t1.s = c := by
    rw [State.peekBytes_succ] at himage
    exact (List.cons.inj himage).1
  have hs : t1.s ∈ upFrom t1.s 12 := List.mem_map.mpr ⟨0, by decide, BitVec.add_zero _⟩
  have hc : t2.cc = c := (hcc q (hplain _ hs)).trans hfirst
  obtain ⟨hptr, hpulled, htouches⟩ := hentire (by rw [State.flag, hc, he])
  refine ⟨t2, hexec, hc, hptr, ?_, htouches⟩
  rw [← himage, ← hpulled q hplain, hc]

/-- Settles O47: RTI pulls the image that SWI pushed. -/
theorem rtiUndoesSwi : Obligations.rti_undoes_swi := by
  unfold Obligations.rti_undoes_swi
  intro t t1 q hcanonical hram hswi
  obtain ⟨⟨hs, hpushed⟩, -, -, -, -, hentry⟩ := entersEntire_takeException true true vectorSwi t
  rw [← exec_swi hswi] at hs hpushed hentry
  rw [length_entireImage] at hs hpushed
  have hlower : t1.s = t.s - 12 := hs
  obtain ⟨hlook, -, hplatform, -, hquiet⟩ := hentry
  have hplain : ∀ addr ∈ upFrom t1.s 12, Plain t1 addr := fun addr h => by
    have hbelow : addr ∈ below t.s 12 := upFrom_pushed (n := 12) (by rw [hlower] at h; exact h)
    exact (hram addr hbelow).plain.of_platform hplatform
  obtain ⟨t2, hexec, hcc, hptr, himage, hrest⟩ := rti_of_entireImage (hquiet q).1 hplain (hpushed q hcanonical hram)
    (by rw [writeFlag_getLsbD, if_pos rfl])
  obtain ⟨-, ha, hb, hdp, hx, hy, hu, hpc⟩ := entireImage_injective himage
  have hback : t2.s = t.s := by
    rw [hptr, hlower]
    bv_omega
  have hkept : ∀ l, l ∉ [Loc.a, .b, .dp, .x, .y, .u, .s, .pc] → t2.look l = t.look l := fun l hl =>
    (hrest.1 l hl).trans (hlook l fun m => hl (by simp_all))
  refine ⟨t2, hexec, hcc, fun l => ?_⟩
  cases l with
  | a => exact congrArg BitVec.toNat ha
  | b => exact congrArg BitVec.toNat hb
  | dp => exact congrArg BitVec.toNat hdp
  | x => exact congrArg BitVec.toNat hx
  | y => exact congrArg BitVec.toNat hy
  | u => exact congrArg BitVec.toNat hu
  | s => exact congrArg BitVec.toNat hback
  | pc => exact congrArg BitVec.toNat hpc
  | nmiArmed | nmiPending | run => exact hkept _ (by decide)

/-! ## The waits -/

/-- A running machine that recognises nothing executes (00_scope.md R11 case 6). -/
theorem recognised_none (p : Pins) (t : State) (hnmi : (t.nmiPending && t.nmiArmed) = false)
    (hfirq : (p.firq && !t.flag .f) = false) (hirq : (p.irq && !t.flag .i) = false) : recognised p t = none := by
  simp [recognised, nmiRequested, firqRequested, irqRequested, hnmi, hfirq, hirq]

theorem recognised_of_nmi (p : Pins) (t : State) (hnmi : (t.nmiPending && t.nmiArmed) = true) :
    recognised p t = some .nmi := by
  simp [recognised, nmiRequested, hnmi]

theorem recognised_of_firq (p : Pins) (t : State) (hnmi : (t.nmiPending && t.nmiArmed) = false)
    (hfirq : (p.firq && !t.flag .f) = true) : recognised p t = some .firq := by
  simp [recognised, nmiRequested, firqRequested, hnmi, hfirq]

theorem recognised_of_irq (p : Pins) (t : State) (hnmi : (t.nmiPending && t.nmiArmed) = false)
    (hfirq : (p.firq && !t.flag .f) = false) (hirq : (p.irq && !t.flag .i) = true) : recognised p t = some .irq := by
  simp [recognised, nmiRequested, firqRequested, irqRequested, hnmi, hfirq, hirq]

theorem stepWithPins_cwai (p : Pins) (t : State) (hreset : p.reset = false) (hhalt : p.halt = false)
    (hrun : t.run = .cwaiWaiting) : stepWithPins p t = cwaiBoundary p t := by
  simp [stepWithPins, hreset, hhalt, hrun]

theorem run_eq_of_look {t t' : State} (h : t'.look .run = t.look .run) : t'.run = t.run := by
  have hnumber : t'.run.number = t.run.number := h
  revert hnumber
  cases t'.run <;> cases t.run <;> simp [RunState.number]

theorem Touches.run {locs : List Loc} {flags : List Flag} {stores : List Word} {t t' : State}
    (h : Touches locs flags stores t t') (n : Loc.run ∉ locs) : t'.run = t.run := run_eq_of_look (h.1 .run n)

theorem nmiPending_eq_of_look {t t' : State} (h : t'.look .nmiPending = t.look .nmiPending) :
    t'.nmiPending = t.nmiPending := by
  have hnumber : t'.nmiPending.toNat = t.nmiPending.toNat := h
  revert hnumber
  cases t'.nmiPending <;> cases t.nmiPending <;> simp

theorem Touches.nmiPending {locs : List Loc} {flags : List Flag} {stores : List Word} {t t' : State}
    (h : Touches locs flags stores t t') (n : Loc.nmiPending ∉ locs) : t'.nmiPending = t.nmiPending :=
  nmiPending_eq_of_look (h.1 .nmiPending n)

/-- The entry that pushes nothing, after latches and the run state are written: the masks, then the vector
(60_exceptions.md R417). -/
theorem entersStacked (setI setF : Bool) (v : Word) {locs : List Loc} {t u : State} (h : Touches locs [] [] t u) :
    let t' := takeException .stacked setI setF v u
    AtVector v t t' ∧ t'.flag .i = (t.flag .i || setI) ∧ t'.flag .f = (t.flag .f || setF) ∧ t'.run = u.run ∧
      t'.nmiPending = u.nmiPending ∧ Touches (.pc :: locs) [.i, .f] [] t t' := by
  have hflag : ∀ k, (takeException .stacked setI setF v u).flag k = (setMasks setI setF u).flag k := fun k =>
    (touches_loadVector v _).2.1 k List.not_mem_nil
  have hu : ∀ k, u.flag k = t.flag k := fun k => h.2.1 k List.not_mem_nil
  have htouches := touches_takeException_stacked setI setF v u
  refine ⟨(loadVector_pc v _).afterTouches (h.trans (touches_setMasks setI setF u)), ?_, ?_, htouches.run (by decide),
    htouches.nmiPending (by decide), (h.trans htouches).mono (by simp [or_comm]) (by simp) (by simp)⟩
  all_goals
    rw [hflag, setMasks_flag, hu]
    simp [hu]

/-- Where one of two flags ends as it was, only the other is touched. -/
theorem Touches.dropFlag {locs : List Loc} {j k : Flag} {stores : List Word} {t t' : State}
    (h : Touches locs [j, k] stores t t') (hk : t'.flag k = t.flag k) : Touches locs [j] stores t t' := by
  obtain ⟨hlocs, hflags, hrest⟩ := h
  refine ⟨hlocs, fun l hl => ?_, hrest⟩
  by_cases hlk : l = k
  · rw [hlk, hk]
  · exact hflags l (by simp_all)

/-- Settles O52: the request that is recognised is entered without a push. -/
theorem cwaiWaitEndsOnUnmasked : Obligations.cwai_wait_ends_on_unmasked := by
  unfold Obligations.cwai_wait_ends_on_unmasked
  intro p t hreset hhalt hrun
  have hstep := stepWithPins_cwai p t hreset hhalt hrun
  refine ⟨fun hnmi => ?nmi, fun hnmi hfirq => ?firq, fun hnmi hfirq hirq => ?irq, fun hnmi hfirq hirq => ?none⟩
  case none =>
    rw [hstep, cwaiBoundary, recognised_none p t hnmi hfirq hirq]
  case nmi =>
    rw [cwaiBoundary, recognised_of_nmi p t hnmi] at hstep
    obtain ⟨hvector, hi, hf, hrunning, hpending, htouches⟩ := entersStacked true true vectorNmi
      ((touches_setNmiPending t false).trans (touches_setRun _ .running))
    exact ⟨_, hstep, hpending, hrunning, hvector, hi.trans (Bool.or_true _), hf.trans (Bool.or_true _),
      htouches.mono (by simp) (fun _ m => m) fun _ m => m⟩
  case firq =>
    rw [cwaiBoundary, recognised_of_firq p t hnmi hfirq] at hstep
    obtain ⟨hvector, hi, hf, hrunning, -, htouches⟩ := entersStacked true true vectorFirq (touches_setRun t .running)
    exact ⟨_, hstep, hrunning, hvector, hi.trans (Bool.or_true _), hf.trans (Bool.or_true _), htouches⟩
  case irq =>
    rw [cwaiBoundary, recognised_of_irq p t hnmi hfirq hirq] at hstep
    obtain ⟨hvector, hi, hf, hrunning, -, htouches⟩ := entersStacked true false vectorIrq (touches_setRun t .running)
    exact ⟨_, hstep, hrunning, hvector, hi.trans (Bool.or_true _), htouches.dropFlag (hf.trans (Bool.or_false _))⟩

/-- Settles O53: a wait that ends goes on as the running machine. -/
theorem syncWaitEndsOnAnyLine : Obligations.sync_wait_ends_on_any_line := by
  unfold Obligations.sync_wait_ends_on_any_line
  intro p t hreset hhalt hrun
  have hstep : stepWithPins p t = syncBoundary p t := by simp [stepWithPins, hreset, hhalt, hrun]
  have hrunning : stepWithPins p (t.setRun .running) = runBoundary p (t.setRun .running) := by
    simp [stepWithPins, hreset, hhalt]
  refine ⟨fun hw => ?_, fun hw hshort => ?_, fun hw hshort => ?_⟩
  · rw [hstep, syncBoundary, endsSync, nmiRequested, hw]
    rfl
  · rw [hstep, hrunning, syncBoundary, endsSync, nmiRequested, hw, hshort]
    rfl
  · rw [hstep, syncBoundary, endsSync, nmiRequested, hw, hshort]
    rfl

/-! ## HALT -/

/-- Settles O54: the boundary while HALT is low, and the first one after it. -/
theorem haltHoldsTheMachine : Obligations.halt_holds_the_machine := by
  unfold Obligations.halt_holds_the_machine
  refine ⟨fun p t hreset hhalt => ?_, fun p t hreset hhalt hrun => ?_, rfl⟩
  · have hstep : stepWithPins p t = .next (haltBoundary t) := by simp [stepWithPins, hreset, hhalt]
    rw [hstep, haltBoundary]
    cases t.run <;> rfl
  · simp [stepWithPins, hreset, hhalt, hrun]

/-! ## The reset sequence -/

theorem writeFlag_self (cc : Byte) (k : Flag) : writeFlag cc k (cc.getLsbD k.bit) = cc :=
  cc_ext fun j => by
    rw [writeFlag_getLsbD]
    split
    · rename_i h
      rw [h]
    · rfl

/-- A flag written with what it holds. -/
theorem State.setFlag_self {t : State} {k : Flag} {b : Bool} (h : t.flag k = b) : t.setFlag k b = t := by
  rw [← h, State.setFlag, State.flag, writeFlag_self]
  rfl

/-- The reset sequence changes nothing before the vector is read, in the state that it leaves. -/
theorem resetSequence_of_reset {t : State} (hf : t.flag .f = true) (hi : t.flag .i = true) (hdp : t.dp = 0x00)
    (harmed : t.nmiArmed = false) (hrun : t.run = .running) : resetSequence t = loadVector vectorReset t := by
  have hmasks : setMasks true true t = t := by
    simp only [setMasks, hi, hf, Bool.true_or, State.setFlag_self hi, State.setFlag_self hf]
  have hlatches : ((t.setDp 0x00).setNmiArmed false).setRun .running = t := by
    rw [← hdp, ← harmed, ← hrun]
    rfl
  rw [resetSequence, hmasks, hlatches]

/-- PC loaded from a vector in plain memory where it is already that vector's. -/
theorem loadVector_again {v : Word} {t : State} (q : Quiet t) (h : Plain t v) (h' : Plain t (v + 1))
    (hpc : t.pc = t.peekWord v) : loadVector v t = t.setBus (t.bus ++ vectorReads v t.pc) := by
  have hreads : vectorReads v t.pc = [.acknowledge v (t.peek v), .acknowledge (v + 1) (t.peek (v + 1))] := by
    rw [hpc, vectorReads, State.peekWord, highByte_joinBytes, lowByte_joinBytes]
  have hload : loadVector v t = (recordCycle (.acknowledge (v + 1) (t.peek (v + 1)))
      (recordCycle (.acknowledge v (t.peek v)) t)).setPc (t.peekWord v) := by
    unfold loadVector
    rw [readWordAs_plain _ v t q h h']
    rfl
  rw [hload, hreads, ← hpc, recordCycle, recordCycle]
  simp [State.setBus, State.setPc]

/-- The fields that the reset sequence writes before it reads the vector. -/
theorem resetSequence_fields (t : State) :
    (resetSequence t).flag .f = true ∧ (resetSequence t).flag .i = true ∧ (resetSequence t).dp = 0x00 ∧
      (resetSequence t).nmiArmed = false ∧ (resetSequence t).run = .running := by
  have hload := touches_loadVector vectorReset ((((setMasks true true t).setDp 0x00).setNmiArmed false).setRun .running)
  refine ⟨?_, ?_, BitVec.eq_of_toNat_eq (hload.1 .dp (by decide)), hload.nmiArmed (by decide), hload.run (by decide)⟩
  · refine (hload.2.1 .f List.not_mem_nil).trans ?_
    simp [setMasks_flag]
  · refine (hload.2.1 .i List.not_mem_nil).trans ?_
    simp [setMasks_flag]

theorem atVector_resetSequence (t : State) : AtVector vectorReset t (resetSequence t) :=
  (loadVector_pc vectorReset _).afterTouches
    (((touches_setMasks true true t).trans (touches_setDp _ 0x00)).trans
      ((touches_setNmiArmed _ false).trans (touches_setRun _ .running)))

/-- Settles O55: the fields as the sequence leaves them, and the sequence again in the state that has them. -/
theorem resetSequenceResult : Obligations.reset_sequence_result := by
  unfold Obligations.reset_sequence_result
  intro p t hreset
  have hstep : ∀ u, stepWithPins p u = .next (resetSequence u) := fun u => by simp [stepWithPins, hreset]
  obtain ⟨hf, hi, hdp, harmed, hrun⟩ := resetSequence_fields t
  have hvector := atVector_resetSequence t
  have htouches := touches_resetSequence t
  refine ⟨_, hstep t, hf, hi, hdp, harmed, hrun, hvector, htouches, fun q h h' => ?_⟩
  obtain ⟨-, -, hpc⟩ := hvector
  obtain ⟨-, -, hplatform, -, hquiet⟩ := htouches
  have hagain := loadVector_again (v := vectorReset) (hquiet q).1 (h.of_platform hplatform) (h'.of_platform hplatform)
    (hpc q h h')
  rw [hstep, resetSequence_of_reset hf hi hdp harmed hrun, hagain]
  rfl

end Sys2Proof.Machine
end

section
/-! PROOFS. The boundary and the fetch (00_scope.md R11, 60_exceptions.md R403 to R407, 20_memory.md R74): what a turn of
the other bus master does, and the step as the decoder's answer on the bytes at PC. -/

namespace Sys2Proof.Machine

/-! ## The other bus master's turn -/

theorem foldl_agentWrite_kindAt (batch : List AgentWrite) (t : State) (addr : Word) :
    (batch.foldl agentWrite t).kindAt addr = t.kindAt addr := by
  obtain ⟨m, h⟩ := foldl_agentWrite_shape batch t
  rw [h]
  rfl

theorem agentWrite_peek (t : State) (w : AgentWrite) (addr : Word) (h : Canonical t) :
    (agentWrite t w).peek addr = if w.1 = addr ∧ t.kindAt addr = .ram then w.2 else t.peek addr := by
  unfold agentWrite
  by_cases ha : w.1 = addr
  · subst ha
    cases hk : t.kindAt w.1 <;> simp [State.peek_poke_same _ _ _ h]
  · cases t.kindAt w.1 <;> simp [ha, State.peek_poke_other _ _ (Ne.symm ha)]

theorem afterBatch_cons (w : AgentWrite) (batch : List AgentWrite) (t u : State) (addr : Word)
    (hu : u.peek addr = if w.1 = addr then w.2 else t.peek addr) :
    afterBatch batch u addr = afterBatch (w :: batch) t addr := by
  unfold afterBatch
  rw [List.reverse_cons, List.find?_append]
  cases batch.reverse.find? (fun w => w.1 == addr) with
  | some w' => rfl
  | none =>
    by_cases ha : w.1 = addr <;> simp [ha, hu]

/-- RAM after a batch: the last write to an address counts. -/
theorem foldl_agentWrite_peek_ram (batch : List AgentWrite) (t : State) (addr : Word) (h : Canonical t)
    (hram : Ram t addr) : (batch.foldl agentWrite t).peek addr = afterBatch batch t addr := by
  induction batch generalizing t with
  | nil => rfl
  | cons w rest ih =>
    have hkind : (agentWrite t w).kindAt addr = t.kindAt addr := foldl_agentWrite_kindAt [w] t addr
    rw [List.foldl_cons, ih (agentWrite t w) (agentWrite_wf t w h) (hkind.trans hram)]
    exact afterBatch_cons w rest t _ addr (by simp [agentWrite_peek t w addr h, show t.kindAt addr = .ram from hram])

theorem foldl_agentWrite_peek_other (batch : List AgentWrite) (t : State) (addr : Word) (h : Canonical t)
    (hram : ¬ Ram t addr) : (batch.foldl agentWrite t).peek addr = t.peek addr := by
  induction batch generalizing t with
  | nil => rfl
  | cons w rest ih =>
    have hkind : (agentWrite t w).kindAt addr = t.kindAt addr := foldl_agentWrite_kindAt [w] t addr
    rw [List.foldl_cons, ih (agentWrite t w) (agentWrite_wf t w h) (by rwa [Ram, hkind])]
    rw [agentWrite_peek t w addr h, if_neg fun hw => hram hw.2]

theorem agentTurn_batch {t : State} {w : AgentWrite} {rest : List AgentWrite} {later : List (List AgentWrite)}
    (h : t.agent = (w :: rest) :: later) :
    agentTurn t = recordCycle .grant (((w :: rest).foldl agentWrite t).setAgent later) := by
  rw [agentTurn, h]

theorem agentTurn_empty {t : State} {later : List (List AgentWrite)} (h : t.agent = [] :: later) :
    agentTurn t = t.setAgent later := by
  rw [agentTurn, h]

theorem agentTurn_look (t : State) (l : Loc) : (agentTurn t).look l = t.look l := by
  obtain ⟨m, ag, bs, h⟩ := agentTurn_shape t
  rw [h, State.look_withBus]

theorem agentTurn_peek_empty {t : State} {later : List (List AgentWrite)} (h : t.agent = [] :: later) (addr : Word) :
    (agentTurn t).peek addr = t.peek addr := by
  rw [agentTurn_empty h]
  rfl

theorem agentTurn_peek_batch {t : State} {w : AgentWrite} {rest : List AgentWrite} {later : List (List AgentWrite)}
    (h : t.agent = (w :: rest) :: later) (addr : Word) :
    (agentTurn t).peek addr = ((w :: rest).foldl agentWrite t).peek addr := by
  rw [agentTurn_batch h]
  rfl

/-- A turn with a schedule. -/
theorem agentTurn_result {t : State} {batch : List AgentWrite} {later : List (List AgentWrite)}
    (h : t.agent = batch :: later) (hc : Canonical t) :
    (agentTurn t).agent = later ∧ (agentTurn t).bus = t.bus ++ (if batch = [] then [] else [.grant]) ∧
    (∀ l : Loc, (agentTurn t).look l = t.look l) ∧ (agentTurn t).cc = t.cc ∧ (agentTurn t).io = t.io ∧
    (∀ addr, Ram t addr → (agentTurn t).peek addr = afterBatch batch t addr) ∧
    (∀ addr, ¬ Ram t addr → (agentTurn t).peek addr = t.peek addr) := by
  have hio : (agentTurn t).io = t.io := by
    obtain ⟨m, ag, bs, hturn⟩ := agentTurn_shape t
    rw [hturn]
    rfl
  cases batch with
  | nil =>
    refine ⟨by rw [agentTurn_empty h]; rfl, by rw [agentTurn_empty h]; simp, agentTurn_look t, agentTurn_cc t, hio,
      fun addr _ => agentTurn_peek_empty h addr, fun addr _ => agentTurn_peek_empty h addr⟩
  | cons w rest =>
    obtain ⟨hbus, -⟩ := foldl_agentWrite_keeps (w :: rest) t
    refine ⟨by rw [agentTurn_batch h]; rfl, ?_, agentTurn_look t, agentTurn_cc t, hio, fun addr hram => ?_,
      fun addr hram => ?_⟩
    · rw [agentTurn_batch h, recordCycle_bus, State.setAgent_bus, hbus]
      rfl
    · rw [agentTurn_peek_batch h, foldl_agentWrite_peek_ram _ _ _ hc hram]
    · rw [agentTurn_peek_batch h, foldl_agentWrite_peek_other _ _ _ hc hram]

/-! ## A turn does not see the pins or the record -/

theorem agentWrite_setPins (t : State) (ps : List Pins) (w : AgentWrite) :
    agentWrite (t.setPins ps) w = (agentWrite t w).setPins ps := by
  have hk : (t.setPins ps).kindAt w.1 = t.kindAt w.1 := rfl
  unfold agentWrite
  rw [hk]
  cases t.kindAt w.1 <;> rfl

theorem agentWrite_setBus (t : State) (bs : List BusCycle) (w : AgentWrite) :
    agentWrite (t.setBus bs) w = (agentWrite t w).setBus bs := by
  have hk : (t.setBus bs).kindAt w.1 = t.kindAt w.1 := rfl
  unfold agentWrite
  rw [hk]
  cases t.kindAt w.1 <;> rfl

theorem agentTurn_setPins (t : State) (ps : List Pins) : agentTurn (t.setPins ps) = (agentTurn t).setPins ps := by
  have hfold : ∀ batch : List AgentWrite, batch.foldl agentWrite (t.setPins ps) = (batch.foldl agentWrite t).setPins ps :=
    fun batch => List.foldl_hom (State.setPins · ps) (fun u w => agentWrite_setPins u ps w)
  rcases h : t.agent with _ | ⟨_ | ⟨w, rest⟩, later⟩
  · rw [agentTurn_none t h, agentTurn_none (t.setPins ps) h]
  · rw [agentTurn_empty h, agentTurn_empty (t := t.setPins ps) h]
    rfl
  · rw [agentTurn_batch h, agentTurn_batch (t := t.setPins ps) h, hfold]
    rfl

/-- The record of the bus has no part in what a turn does to memory and to the schedule. -/
theorem agentTurn_setBus (t : State) (bs : List BusCycle) :
    (agentTurn (t.setBus bs)).mem = (agentTurn t).mem ∧ (agentTurn (t.setBus bs)).agent = (agentTurn t).agent := by
  have hfold : ∀ batch : List AgentWrite, batch.foldl agentWrite (t.setBus bs) = (batch.foldl agentWrite t).setBus bs :=
    fun batch => List.foldl_hom (State.setBus · bs) (fun u w => agentWrite_setBus u bs w)
  rcases h : t.agent with _ | ⟨_ | ⟨w, rest⟩, later⟩
  · rw [agentTurn_none t h, agentTurn_none (t.setBus bs) h]
    exact ⟨rfl, rfl⟩
  · rw [agentTurn_empty h, agentTurn_empty (t := t.setBus bs) h]
    exact ⟨rfl, rfl⟩
  · rw [agentTurn_batch h, agentTurn_batch (t := t.setBus bs) h, hfold]
    exact ⟨rfl, rfl⟩

theorem samplePins_eq (t : State) : samplePins t = (t.pins.headD Pins.inactive, t.setPins t.pins.tail) := by
  unfold samplePins
  cases h : t.pins with
  | nil =>
    have hsame : t.setPins [] = t := by rw [← h]; rfl
    rw [List.tail_nil, hsame]
    rfl
  | cons p later => rfl

/-- The pins and the state with which a step works. -/
theorem openBoundary_eq (t : State) : openBoundary t =
    (t.pins.headD Pins.inactive, latchNmi (t.pins.headD Pins.inactive) ((agentTurn (t.setBus [])).setPins t.pins.tail)) := by
  have hturn : agentTurn ((t.setPins t.pins.tail).setBus []) = (agentTurn (t.setBus [])).setPins t.pins.tail :=
    agentTurn_setPins (t.setBus []) t.pins.tail
  rw [openBoundary, samplePins_eq]
  simp only [hturn]

/-! ## An access begins with a turn -/

theorem platformRead_memory (addr : Word) (t : State) :
    (platformRead addr t).2.mem = t.mem ∧ (platformRead addr t).2.agent = t.agent := by
  obtain ⟨io, n, h⟩ := platformRead_shape addr t
  rw [h]
  exact ⟨rfl, rfl⟩

theorem platformRead_plain {addr : Word} {t : State} (h : Plain t addr) : (platformRead addr t).1 = t.peek addr := by
  unfold platformRead
  rcases h with h | h <;> rw [h]

theorem platformWrite_agent (addr : Word) (v : Byte) (t : State) : (platformWrite addr v t).agent = t.agent := by
  obtain ⟨m, io, h⟩ := platformWrite_shape addr v t
  rw [h]
  rfl

theorem platformWrite_peek_other (addr : Word) (v : Byte) (t : State) {b : Word} (h : b ≠ addr) :
    (platformWrite addr v t).peek b = t.peek b := by
  unfold platformWrite
  cases t.kindAt addr
  · exact State.peek_poke_other t v h
  all_goals rfl

theorem platformWrite_peek_ram {addr : Word} {t : State} (v : Byte) (hram : Ram t addr) (h : Canonical t) :
    (platformWrite addr v t).peek addr = v := by
  unfold platformWrite
  rw [show t.kindAt addr = .ram from hram]
  exact State.peek_poke_same t addr v h

/-- Settles O48: the boundary is a turn with the pins and the latch about it, and so is each access. -/
theorem boundaryTakesInputs : Obligations.boundary_takes_inputs := by
  unfold Obligations.boundary_takes_inputs
  refine ⟨fun t => ?opened, fun t h => agentTurn_none t h, fun t batch later h hc => agentTurn_result h hc,
    fun t addr => ?access⟩
  case opened =>
    obtain ⟨hmem, hagent⟩ := agentTurn_setBus t []
    obtain ⟨m, ag, bs, hshape⟩ := agentTurn_shape (t.setBus [])
    rw [openBoundary_eq]
    refine ⟨rfl, rfl, ?_, fun l hl => ?_, ?_, ?_, ?_, hmem, hagent, rfl⟩
    · rw [hshape]; rfl
    · have hlook := agentTurn_look (t.setBus []) l
      cases l with
      | nmiPending => exact absurd rfl hl
      | _ => exact hlook
    · rw [hshape]; rfl
    · rw [hshape]; rfl
    · rw [hshape]; rfl
  case access =>
    have hkind : (agentTurn t).kindAt addr = t.kindAt addr := agentTurn_kindAt t addr
    obtain ⟨hmem, hagent⟩ := platformRead_memory addr (agentTurn t)
    refine ⟨fun h => platformRead_plain (by rwa [Plain, hkind]), hagent, hmem, fun v => ⟨platformWrite_agent _ _ _,
      fun b hb => platformWrite_peek_other addr v _ hb, fun hram hc => ?_⟩⟩
    exact platformWrite_peek_ram v (hkind.trans hram) (agentTurn_wf t hc)

/-! ## The fetch -/

/-- The state in which the first `n` bytes at PC have been fetched. -/
def fetched (n : Nat) (t : State) : State :=
  (t.setBus (t.bus ++ fetchReads t.pc (t.peekBytes t.pc n))).setPc (t.pc + BitVec.ofNat 16 n)

theorem fetched_zero (t : State) : fetched 0 t = t := by
  have hpc : t.pc + BitVec.ofNat 16 0 = t.pc := BitVec.add_zero _
  rw [fetched, State.peekBytes_zero, fetchReads, List.append_nil, hpc]
  rfl

theorem fetched_one (t : State) : fetched 1 t = (recordCycle (.read t.pc (t.peek t.pc)) t).setPc (t.pc + 1) := by
  rw [fetched, State.peekBytes_succ, State.peekBytes_zero]
  rfl

theorem fetchByte_plain {t : State} (q : Quiet t) (h : Plain t t.pc) :
    fetchByte t = (t.peek t.pc, fetched 1 t) := by
  unfold fetchByte
  rw [readByte_plain t.pc t q h, fetched_one]

/-- A byte, and then those after it. -/
theorem fetched_succ (n : Nat) (t : State) : fetched n (fetched 1 t) = fetched (n + 1) t := by
  have hpc : t.pc + BitVec.ofNat 16 1 + BitVec.ofNat 16 n = t.pc + BitVec.ofNat 16 (n + 1) := by
    rw [add_ofNat_add, Nat.add_comm]
  have hleft : fetched n (fetched 1 t) = (t.setBus (t.bus ++ [.read t.pc (t.peek t.pc)] ++
      fetchReads (t.pc + 1) (t.peekBytes (t.pc + 1) n))).setPc (t.pc + 1 + BitVec.ofNat 16 n) := by
    rw [fetched_one]
    rfl
  have hright : fetched (n + 1) t = (t.setBus (t.bus ++ (.read t.pc (t.peek t.pc) ::
      fetchReads (t.pc + 1) (t.peekBytes (t.pc + 1) n)))).setPc (t.pc + 1 + BitVec.ofNat 16 n) := by
    rw [fetched, State.peekBytes_succ, fetchReads, ← hpc]
    rfl
  rw [hleft, hright, List.append_assoc]
  rfl

/-- What the fetch answers where the decoder has answered on the first `n` bytes. -/
def fetchAnswer (n : Nat) (t : State) : Parse → Except Fault (Instr × State) → Prop
  | .more, _ => True
  | .done i rest, r => rest = [] → r = .ok (i, fetched n t)
  | .illegal e, r => r = .error (faultOf e)

theorem fetchAnswer_of_fetched {n : Nat} {t : State} {p : Parse} {r : Except Fault (Instr × State)}
    (h : fetchAnswer n (fetched 1 t) p r) : fetchAnswer (n + 1) t p r := by
  cases p with
  | more => trivial
  | illegal e => exact h
  | done i rest => exact fun hnil => (h hnil).trans (by rw [fetched_succ])

/-- The fetch of bytes in plain memory stops where the decoder answers (30_encoding.md R111): an earlier answer is the
same one, for more bytes change none. -/
theorem fetchFrom_plain (fuel n : Nat) (bytes : List Byte) (t : State) (q : Quiet t) (hplain : PlainFrom t t.pc n)
    (hmore : decode bytes = .more) (hn : n ≤ fuel) :
    fetchAnswer n t (decode (bytes ++ t.peekBytes t.pc n)) (fetchFrom fuel bytes t) := by
  induction n generalizing fuel bytes t with
  | zero =>
    rw [State.peekBytes_zero, List.append_nil, hmore]
    trivial
  | succ n ih =>
    obtain ⟨fuel, rfl⟩ : ∃ k, fuel = k + 1 := ⟨fuel - 1, by omega⟩
    have hbyte : fetchByte t = (t.peek t.pc, fetched 1 t) :=
      fetchByte_plain q (by simpa using hplain 0 (Nat.succ_pos n))
    have hsplit : bytes ++ t.peekBytes t.pc (n + 1) = (bytes ++ [t.peek t.pc]) ++ t.peekBytes (t.pc + 1) n := by
      rw [State.peekBytes_succ, List.append_assoc]
      rfl
    rw [hsplit, fetchFrom, hbyte]
    cases hd : decode (bytes ++ [t.peek t.pc]) with
    | more =>
      have hrest : PlainFrom (fetched 1 t) (fetched 1 t).pc n := fun k hk => by
        have hk' := hplain (1 + k) (by omega)
        rwa [← add_ofNat_add] at hk'
      have hanswer := ih fuel (bytes ++ [t.peek t.pc]) (fetched 1 t) q hrest hd (by omega)
      exact fetchAnswer_of_fetched hanswer
    | illegal e =>
      rw [decode_stable _ _ (by rw [hd]; nofun), hd]
      rfl
    | done i rest =>
      rw [decode_stable _ _ (by rw [hd]; nofun), hd]
      intro hnil
      have hn : n = 0 := by
        have hlength := congrArg List.length (List.append_eq_nil_iff.mp hnil).2
        rwa [State.length_peekBytes] at hlength
      rw [hn]

/-! ## The step of a machine that runs -/

/-- The state in which a step of a machine without another master fetches. -/
def boundaryState (t : State) : State :=
  ((t.setPins t.pins.tail).setNmiPending (t.nmiPending || (t.pins.headD Pins.inactive).nmiEdge)).setBus []

theorem openBoundary_quiet {t : State} (q : Quiet t) :
    openBoundary t = (t.pins.headD Pins.inactive, boundaryState t) := by
  rw [openBoundary_eq, agentTurn_none (t.setBus []) q]
  rfl

/-- A running machine whose pins and latch recognise nothing executes at PC (60_exceptions.md R406, R407). -/
theorem step_executes {t : State} (hrun : t.run = .running) (hreset : (t.pins.headD Pins.inactive).reset = false)
    (hhalt : (t.pins.headD Pins.inactive).halt = false) (q : Quiet t)
    (hnmi : ((t.nmiPending || (t.pins.headD Pins.inactive).nmiEdge) && t.nmiArmed) = false)
    (hfirq : ((t.pins.headD Pins.inactive).firq && !t.flag .f) = false)
    (hirq : ((t.pins.headD Pins.inactive).irq && !t.flag .i) = false) : step t = executeNext (boundaryState t) := by
  have hnone : recognised (t.pins.headD Pins.inactive) (boundaryState t) = none :=
    recognised_none _ (boundaryState t) hnmi hfirq hirq
  have hrun' : (boundaryState t).run = .running := hrun
  rw [step, boundaryStep, openBoundary_quiet q]
  simp only [stepWithPins, hreset, hhalt, hrun', runBoundary, hnone, Bool.false_eq_true, if_false]

/-- The decoder's answer on the bytes at PC is the fetch's. -/
theorem fetch_answers {t : State} {n : Nat} (q : Quiet t) (hplain : ∀ addr ∈ upFrom t.pc n, Plain t addr)
    (hn : n ≤ maxLength) : fetchAnswer n (boundaryState t) (decode (t.peekBytes t.pc n)) (fetch (boundaryState t)) :=
  fetchFrom_plain maxLength n [] (boundaryState t) q (plainFrom_iff.mpr hplain) rfl hn

/-- Settles O11: the fetch gives the instruction, and the step executes it. -/
theorem stepRunsDecodedInstruction : Obligations.step_runs_decoded_instruction := by
  unfold Obligations.step_runs_decoded_instruction
  intro t n i p hrun hreset hhalt q hnmi hfirq hirq hplain hdecode hn
  have hanswer := fetch_answers q hplain hn
  rw [hdecode] at hanswer
  rw [step_executes hrun hreset hhalt q hnmi hfirq hirq, executeNext, hanswer rfl]
  rfl

/-- Settles O12: the fetch refuses, and with it the step. -/
theorem stepFaultsOnIllegalBytes : Obligations.step_faults_on_illegal_bytes := by
  unfold Obligations.step_faults_on_illegal_bytes
  intro t n e p hrun hreset hhalt q hnmi hfirq hirq hplain hdecode hn
  have hanswer : fetch (boundaryState t) = .error (faultOf e) := by
    have h := fetch_answers q hplain hn
    rwa [hdecode] at h
  rw [step_executes hrun hreset hhalt q hnmi hfirq hirq, executeNext, hanswer]

end Sys2Proof.Machine
end

section
/-! PROOFS. What the accesses move over the bus (20_memory.md R66, R69): the operation of each instruction after its
operand is read adds nothing to the records, and every operation has its transfers. -/

namespace Sys2Proof.Machine

/-! ## Operands as accesses -/

theorem operand8_of_mem (m : Mem) (t : State) : operand8 (memAsSrc8 m) t = readByte (memEA m t).1 (memEA m t).2 := by
  cases m <;> rfl

theorem operand16_of_mem (m : Mem) (t : State) : operand16 (memAsSrc16 m) t = readWord (memEA m t).1 (memEA m t).2 := by
  cases m <;> rfl

theorem moves_operand8_of_mem (m : Mem) (t : State) :
    Moves [.read (memEA m t).1 (readByte (memEA m t).1 (memEA m t).2).1] (memEA m t).2 (operand8 (memAsSrc8 m) t).2 := by
  rw [operand8_of_mem]
  exact moves_readByte _ _

theorem moves_operand16_of_mem (m : Mem) (t : State) :
    Moves (wordReads (memEA m t).1 (readWord (memEA m t).1 (memEA m t).2).1) (memEA m t).2
      (operand16 (memAsSrc16 m) t).2 := by
  rw [operand16_of_mem]
  exact moves_readWord _ _

/-! ## The records after the operand -/

/-- The two states have the same records of the bus and of the devices, and the same platform. -/
structure SameRecords (t t' : State) : Prop where
  bus : t'.bus = t.bus
  io : t'.io = t.io
  platform : t'.platform = t.platform

theorem SameRecords.moves {cs : List BusCycle} {t u v : State} (h : SameRecords u v) (hm : Moves cs t u) : Moves cs t v :=
  hm.andKeeps h.bus h.io

theorem State.setWide_records (t : State) (r : Wide) (v : Word) : SameRecords t (t.setWide r v) := by
  cases r with
  | d => exact ⟨rfl, rfl, rfl⟩
  | ptr p => exact ⟨State.setPtr_bus t p v, State.setPtr_io t p v, State.setPtr_platform t p v⟩

theorem addAcc_records (r : Acc) (c : Bool) (o : Src8) (t : State) : SameRecords (operand8 o t).2 (addAcc r c o t) :=
  ⟨by simp [addAcc], by simp [addAcc], by simp [addAcc]⟩

theorem subAcc_records (r : Acc) (c : Bool) (o : Src8) (t : State) : SameRecords (operand8 o t).2 (subAcc r c o t) :=
  ⟨by simp [subAcc], by simp [subAcc], by simp [subAcc]⟩

theorem cmpAcc_records (r : Acc) (o : Src8) (t : State) : SameRecords (operand8 o t).2 (cmpAcc r o t) :=
  ⟨by simp [cmpAcc], by simp [cmpAcc], by simp [cmpAcc]⟩

theorem logicAcc_records (r : Acc) (op : Byte → Byte → Byte) (o : Src8) (t : State) :
    SameRecords (operand8 o t).2 (logicAcc r op o t) :=
  ⟨by simp [logicAcc], by simp [logicAcc], by simp [logicAcc]⟩

theorem bitAcc_records (r : Acc) (o : Src8) (t : State) : SameRecords (operand8 o t).2 (bitAcc r o t) :=
  ⟨by simp [bitAcc], by simp [bitAcc], by simp [bitAcc]⟩

theorem loadAcc_records (r : Acc) (o : Src8) (t : State) : SameRecords (operand8 o t).2 (loadAcc r o t) :=
  ⟨by simp [loadAcc], by simp [loadAcc], by simp [loadAcc]⟩

theorem addWide_records (r : Wide) (o : Src16) (t : State) : SameRecords (operand16 o t).2 (addWide r o t) := by
  obtain ⟨hb, hi, hp⟩ := State.setWide_records (operand16 o t).2 r
    (addBits ((operand16 o t).2.wide r) (operand16 o t).1 false).r
  exact ⟨by simp [addWide, hb], by simp [addWide, hi], by simp [addWide, hp]⟩

theorem subWide_records (r : Wide) (o : Src16) (t : State) : SameRecords (operand16 o t).2 (subWide r o t) := by
  obtain ⟨hb, hi, hp⟩ := State.setWide_records (operand16 o t).2 r
    (subBits ((operand16 o t).2.wide r) (operand16 o t).1 false).r
  exact ⟨by simp [subWide, hb], by simp [subWide, hi], by simp [subWide, hp]⟩

theorem cmpWide_records (r : Wide) (o : Src16) (t : State) : SameRecords (operand16 o t).2 (cmpWide r o t) :=
  ⟨by simp [cmpWide], by simp [cmpWide], by simp [cmpWide]⟩

theorem loadWide_records (r : Wide) (o : Src16) (t : State) : SameRecords (operand16 o t).2 (loadWide r o t) := by
  obtain ⟨hb, hi, hp⟩ := State.setWide_records (operand16 o t).2 r (operand16 o t).1
  exact ⟨by simp [loadWide, hb], by simp [loadWide, hi], by simp [loadWide, hp]⟩

theorem loadAddress_records (p : Ptr) (i : Indexed) (t : State) : SameRecords (indexedEA i t).2 (loadAddress p i t) :=
  ⟨by simp [loadAddress], by simp [loadAddress], by simp [loadAddress]⟩

theorem loadAddressZ_records (p : Ptr) (i : Indexed) (t : State) : SameRecords (indexedEA i t).2 (loadAddressZ p i t) :=
  ⟨by simp [loadAddressZ], by simp [loadAddressZ], by simp [loadAddressZ]⟩

theorem moves_testMem (m : Mem) (t : State) :
    Moves [.read (memEA m t).1 (readByte (memEA m t).1 (memEA m t).2).1] (memEA m t).2 (testMem m t) :=
  (moves_readByte _ _).andKeeps (State.setLogic_bus _ _) (State.setLogic_io _ _)

theorem moves_storeAcc (r : Acc) (m : Mem) (t : State) :
    Moves [.write (memEA m t).1 (t.acc r)] (memEA m t).2 (storeAcc r m t) := by
  rw [← memEA_acc m t r]
  exact (moves_writeByte _ _ _).andKeeps (State.setLogic_bus _ _) (State.setLogic_io _ _)

theorem moves_storeWide (r : Wide) (m : Mem) (t : State) :
    Moves (wordWrites (memEA m t).1 ((memEA m t).2.wide r)) (memEA m t).2 (storeWide r m t) :=
  (moves_writeWord _ _ _).andKeeps (State.setLogic_bus _ _) (State.setLogic_io _ _)

/-! ## The operations as runs of transfers -/

/-- The operation moves bytes over the bus and changes no unit on it. -/
def Transfers (t t' : State) : Prop := (∃ cs, Moves cs t t') ∧ t'.platform = t.platform

theorem Transfers.of_moves {cs : List BusCycle} {t t' : State} (h : Moves cs t t') (hp : t'.platform = t.platform) :
    Transfers t t' := ⟨⟨cs, h⟩, hp⟩

theorem SameRecords.transfers {t t' : State} (h : SameRecords t t') : Transfers t t' :=
  ⟨⟨[], Moves.of_records h.bus h.io⟩, h.platform⟩

theorem Transfers.trans {t u v : State} (h : Transfers t u) (h' : Transfers u v) : Transfers t v := by
  obtain ⟨⟨cs, hm⟩, hp⟩ := h
  obtain ⟨⟨ds, hm'⟩, hp'⟩ := h'
  exact ⟨⟨cs ++ ds, hm.trans hp hm'⟩, hp'.trans hp⟩

theorem Transfers.refl (t : State) : Transfers t t := ⟨⟨[], Moves.refl t⟩, rfl⟩

/-- An update of a register, a flag or a latch. -/
theorem Transfers.then {t u v : State} (h : Transfers t u) (hb : v.bus = u.bus) (hi : v.io = u.io)
    (hp : v.platform = u.platform) : Transfers t v := h.trans (SameRecords.transfers ⟨hb, hi, hp⟩)

theorem transfers_indexedEA (i : Indexed) (t : State) : Transfers t (indexedEA i t).2 :=
  .of_moves (moves_indexedEA i t) (touches_indexedEA i t).2.2.1

theorem transfers_memEA (m : Mem) (t : State) : Transfers t (memEA m t).2 := by
  cases m with
  | idx i => exact transfers_indexedEA i t
  | dir v | ext v => exact .refl t

theorem transfers_readByte (addr : Word) (t : State) : Transfers t (readByte addr t).2 :=
  .of_moves (moves_readByte addr t) (readByte_platform addr t)

theorem transfers_readWord (addr : Word) (t : State) : Transfers t (readWord addr t).2 :=
  .of_moves (moves_readWord addr t) (readWord_platform addr t)

theorem transfers_operand8 (o : Src8) (t : State) : Transfers t (operand8 o t).2 := by
  cases o with
  | imm v => exact .refl t
  | dir v | ext v => exact transfers_readByte _ t
  | idx i => exact (transfers_indexedEA i t).trans (transfers_readByte _ _)

theorem transfers_operand16 (o : Src16) (t : State) : Transfers t (operand16 o t).2 := by
  cases o with
  | imm v => exact .refl t
  | dir v | ext v => exact transfers_readWord _ t
  | idx i => exact (transfers_indexedEA i t).trans (transfers_readWord _ _)

theorem transfers_pushImage (p : Ptr) (image : List Byte) (t : State) : Transfers t (pushImage p image t) := by
  induction image with
  | nil => exact .refl t
  | cons v rest ih => exact ih.trans (.of_moves (moves_push8 p v _) (push8_platform p v _))

theorem transfers_pull8 (p : Ptr) (t : State) : Transfers t (pull8 p t).2 :=
  .of_moves (moves_pull8 p t) (pull8_platform p t)

theorem transfers_pull16 (p : Ptr) (t : State) : Transfers t (pull16 p t).2 :=
  (transfers_pull8 p t).trans (transfers_pull8 p _)

theorem transfers_pullByteTo {p : Ptr} {put : State → Byte → State} (h : ∀ t v, SameRecords t (put t v)) (t : State) :
    Transfers t (pullByteTo p put t) := (transfers_pull8 p t).trans (h _ _).transfers

theorem transfers_pullWordTo {p : Ptr} {put : State → Word → State} (h : ∀ t v, SameRecords t (put t v)) (t : State) :
    Transfers t (pullWordTo p put t) := (transfers_pull16 p t).trans (h _ _).transfers

theorem transfers_whenListed (regs : Byte) (bit : Nat) {op : State → State} (h : ∀ t, Transfers t (op t)) (t : State) :
    Transfers t (whenListed regs bit op t) := by
  unfold whenListed
  split
  · exact h t
  · exact .refl t

theorem transfers_loadVector (v : Word) (t : State) : Transfers t (loadVector v t) :=
  .of_moves (moves_loadVector v t) (touches_loadVector v t).2.2.1

end Sys2Proof.Machine
end

section
/-! PROOFS. What every instruction keeps, said once over the instructions, and the statements about all of them:
canonical memory, the platform, DP, the interrupt masks, the NMI latch and the run state (10_state.md R28, R38, R43;
60_exceptions.md R421), and the transfers (20_memory.md R66). -/

namespace Sys2Proof.Machine

/-! ## Transfers of the composite operations -/

theorem writeReg_records (r : Reg) (v : Word) (t : State) : SameRecords t (writeReg r v t) := by
  cases r <;> exact ⟨rfl, rfl, rfl⟩

theorem transfers_pullSlots {slots : List Slot} (h : ∀ slot ∈ slots, ∀ t, Transfers t (slot.pull t)) (regs : Byte)
    (t : State) : Transfers t (pullSlots regs slots t) := by
  induction slots generalizing t with
  | nil => exact .refl t
  | cons slot rest ih =>
    obtain ⟨hslot, hrest⟩ := List.forall_mem_cons.mp h
    exact (transfers_whenListed regs slot.bit hslot t).trans (ih hrest _)

theorem transfers_listSlots (p : Ptr) {f : State → State} (hf : ∀ t, SameRecords t (f t)) :
    ∀ slot ∈ listSlots p f, ∀ t, Transfers t (slot.pull t) := by
  have hother : ∀ (t : State) v, SameRecords t (f (t.setPtr (otherStack p) v)) := fun t v => by
    obtain ⟨hb, hi, hp⟩ := hf (t.setPtr (otherStack p) v)
    exact ⟨hb.trans (State.setPtr_bus _ _ _), hi.trans (State.setPtr_io _ _ _), hp.trans (State.setPtr_platform _ _ _)⟩
  unfold listSlots
  simp only [List.forall_mem_cons]
  exact ⟨transfers_pullByteTo (put := State.setCc) fun _ _ => ⟨rfl, rfl, rfl⟩,
    transfers_pullByteTo (put := State.setA) fun _ _ => ⟨rfl, rfl, rfl⟩,
    transfers_pullByteTo (put := State.setB) fun _ _ => ⟨rfl, rfl, rfl⟩,
    transfers_pullByteTo (put := State.setDp) fun _ _ => ⟨rfl, rfl, rfl⟩,
    transfers_pullWordTo (put := State.setX) fun _ _ => ⟨rfl, rfl, rfl⟩,
    transfers_pullWordTo (put := State.setY) fun _ _ => ⟨rfl, rfl, rfl⟩,
    transfers_pullWordTo hother,
    transfers_pullWordTo (put := State.setPc) fun _ _ => ⟨rfl, rfl, rfl⟩, List.forall_mem_nil _⟩

/-- RTI is one of two pulls of a list. -/
theorem transfers_returnFromException (t : State) : Transfers t (returnFromException t) := by
  have hlist : ∀ regs, Transfers t (pullSlots regs (listSlots .s id) t) := fun regs =>
    transfers_pullSlots (transfers_listSlots .s (f := id) fun _ => ⟨rfl, rfl, rfl⟩) regs t
  cases he : (pullByteTo .s State.setCc t).flag .e
  · rw [returnFromException_subset he]
    exact hlist 0x81
  · rw [returnFromException_entire he]
    exact hlist 0xFF

theorem transfers_enterWithImage (e setI setF : Bool) (v : Word) (image : List Byte) (t : State) :
    Transfers t (enterWithImage e setI setF v image t) := by
  have hpush := transfers_pushImage .s image (t.setFlag .e e)
  exact ((((Transfers.refl t).then rfl rfl rfl).trans hpush).then rfl rfl rfl).trans (transfers_loadVector v _)

theorem transfers_takeException_entire (setI setF : Bool) (v : Word) (t : State) :
    Transfers t (takeException .entire setI setF v t) := by
  rw [takeException_entire_eq]
  exact transfers_enterWithImage _ _ _ _ _ t

theorem modifyAcc_records (op : ByteOp) (r : Acc) (t : State) : SameRecords t (modifyAcc op.meaning r t) := by
  obtain ⟨-, hbus, hio, hplatform⟩ := meaning_keeps op (t.acc r) t
  exact ⟨(State.setAcc_bus _ _ _).trans hbus, (State.setAcc_io _ _ _).trans hio,
    (State.setAcc_platform _ _ _).trans hplatform⟩

/-! ## The effect of an instruction -/

/-- The instructions that may write DP (10_state.md R28). -/
def WritesDp (i : Instr) : Prop :=
  (∃ p, i = .tfr p .dp) ∨ (∃ p, i = .exg p .dp ∨ i = .exg .dp p) ∨
  (∃ regs : Byte, regs.getLsbD 3 = true ∧ (i = .puls regs ∨ i = .pulu regs)) ∨ i = .rti

/-- The instructions that write CC wholesale (10_state.md R38). -/
def WritesCc (i : Instr) : Prop :=
  (∃ v, i = .andcc v ∨ i = .cwai v) ∨ (∃ p, i = .tfr p .cc ∨ i = .exg p .cc ∨ i = .exg .cc p) ∨
  (∃ regs : Byte, regs.getLsbD 0 = true ∧ (i = .puls regs ∨ i = .pulu regs)) ∨ i = .rti

/-- What instruction `i` does at most to what few instructions write. -/
structure Effect (i : Instr) (t t' : State) : Prop where
  canonical : Canonical t → Canonical t'
  transfers : Transfers t t'
  dp : t'.dp = t.dp ∨ WritesDp i
  masks : (∀ k, k = .i ∨ k = .f → t.flag k = true → t'.flag k = true) ∨ WritesCc i
  armed : t.nmiArmed = true → t'.nmiArmed = true
  run : t'.run = t.run ∨ (i = .sync ∧ t'.run = .syncing) ∨ (∃ v, i = .cwai v) ∧ t'.run = .cwaiWaiting

/-- The places are registers other than DP. -/
def OnlyRegisters (locs : List Loc) : Prop := Loc.dp ∉ locs ∧ Loc.nmiArmed ∉ locs ∧ Loc.run ∉ locs

/-- The flags are not the interrupt masks. -/
def NoMasks (flags : List Flag) : Prop := Flag.i ∉ flags ∧ Flag.f ∉ flags

theorem onlyRegisters_nil : OnlyRegisters [] := ⟨List.not_mem_nil, List.not_mem_nil, List.not_mem_nil⟩

theorem OnlyRegisters.append {l m : List Loc} (hl : OnlyRegisters l) (hm : OnlyRegisters m) : OnlyRegisters (l ++ m) := by
  obtain ⟨hdp, harmed, hrun⟩ := hl
  obtain ⟨hdp', harmed', hrun'⟩ := hm
  exact ⟨by simp [hdp, hdp'], by simp [harmed, harmed'], by simp [hrun, hrun']⟩

theorem onlyRegisters_ptr (p : Ptr) : OnlyRegisters [ptrLoc p] := by cases p <;> exact ⟨by decide, by decide, by decide⟩

theorem onlyRegisters_acc (r : Acc) : OnlyRegisters [r.loc] := by cases r <;> exact ⟨by decide, by decide, by decide⟩

theorem onlyRegisters_wide (r : Wide) : OnlyRegisters r.locs := by
  cases r with
  | d => exact ⟨by decide, by decide, by decide⟩
  | ptr p => exact onlyRegisters_ptr p

theorem onlyRegisters_indexed (i : Indexed) : OnlyRegisters (indexedWrites i) :=
  ⟨not_mem_indexedWrites (by intro r; cases r <;> decide) i, not_mem_indexedWrites (by intro r; cases r <;> decide) i,
    not_mem_indexedWrites (by intro r; cases r <;> decide) i⟩

theorem onlyRegisters_src8 (o : Src8) : OnlyRegisters (src8Writes o) := by
  cases o with
  | idx i => exact onlyRegisters_indexed i
  | imm v | dir v | ext v => exact onlyRegisters_nil

theorem onlyRegisters_src16 (o : Src16) : OnlyRegisters (src16Writes o) := by
  cases o with
  | idx i => exact onlyRegisters_indexed i
  | imm v | dir v | ext v => exact onlyRegisters_nil

theorem onlyRegisters_mem (m : Mem) : OnlyRegisters (memWrites m) := by
  cases m with
  | idx i => exact onlyRegisters_indexed i
  | dir v | ext v => exact onlyRegisters_nil

theorem Touches.dp {locs : List Loc} {flags : List Flag} {stores : List Word} {t t' : State}
    (h : Touches locs flags stores t t') (n : Loc.dp ∉ locs) : t'.dp = t.dp :=
  BitVec.eq_of_toNat_eq (h.1 .dp n)

/-- Most instructions write registers, result flags and memory. -/
theorem Effect.ordinary {i : Instr} {locs : List Loc} {flags : List Flag} {stores : List Word} {t t' : State}
    (h : Touches locs flags stores t t') (hl : OnlyRegisters locs) (hf : NoMasks flags)
    (hc : Canonical t → Canonical t') (hm : Transfers t t') : Effect i t t' where
  canonical := hc
  transfers := hm
  dp := .inl (h.dp hl.1)
  masks := .inl fun k hk hset => by
    rcases hk with rfl | rfl
    · rw [h.2.1 .i hf.1, hset]
    · rw [h.2.1 .f hf.2, hset]
  armed harmed := by rw [h.nmiArmed hl.2.1, harmed]
  run := .inl (h.run hl.2.2)

/-! ## The shared operations -/

theorem effect_addAcc {i : Instr} (r : Acc) (c : Bool) (o : Src8) (t : State) : Effect i t (addAcc r c o t) :=
  .ordinary (touches_addAcc r c o t) ((onlyRegisters_acc r).append (onlyRegisters_src8 o)) ⟨by decide, by decide⟩
    (addAcc_wf r c o t) ((transfers_operand8 o t).trans (addAcc_records r c o t).transfers)

theorem effect_subAcc {i : Instr} (r : Acc) (c : Bool) (o : Src8) (t : State) : Effect i t (subAcc r c o t) :=
  .ordinary (touches_subAcc r c o t) ((onlyRegisters_acc r).append (onlyRegisters_src8 o)) ⟨by decide, by decide⟩
    (subAcc_wf r c o t) ((transfers_operand8 o t).trans (subAcc_records r c o t).transfers)

theorem effect_cmpAcc {i : Instr} (r : Acc) (o : Src8) (t : State) : Effect i t (cmpAcc r o t) :=
  .ordinary (touches_cmpAcc r o t) (onlyRegisters_src8 o) ⟨by decide, by decide⟩
    (cmpAcc_wf r o t) ((transfers_operand8 o t).trans (cmpAcc_records r o t).transfers)

theorem effect_logicAcc {i : Instr} (r : Acc) (op : Byte → Byte → Byte) (o : Src8) (t : State) :
    Effect i t (logicAcc r op o t) :=
  .ordinary (touches_logicAcc r op o t) ((onlyRegisters_acc r).append (onlyRegisters_src8 o)) ⟨by decide, by decide⟩
    (logicAcc_wf r op o t) ((transfers_operand8 o t).trans (logicAcc_records r op o t).transfers)

theorem effect_bitAcc {i : Instr} (r : Acc) (o : Src8) (t : State) : Effect i t (bitAcc r o t) :=
  .ordinary (touches_bitAcc r o t) (onlyRegisters_src8 o) ⟨by decide, by decide⟩
    (bitAcc_wf r o t) ((transfers_operand8 o t).trans (bitAcc_records r o t).transfers)

theorem effect_loadAcc {i : Instr} (r : Acc) (o : Src8) (t : State) : Effect i t (loadAcc r o t) :=
  .ordinary (touches_loadAcc r o t) ((onlyRegisters_acc r).append (onlyRegisters_src8 o)) ⟨by decide, by decide⟩
    (loadAcc_wf r o t) ((transfers_operand8 o t).trans (loadAcc_records r o t).transfers)

theorem effect_storeAcc {i : Instr} (r : Acc) (m : Mem) (t : State) : Effect i t (storeAcc r m t) :=
  .ordinary (touches_storeAcc r m t) (onlyRegisters_mem m) ⟨by decide, by decide⟩ (storeAcc_wf r m t)
    ((transfers_memEA m t).trans (.of_moves (moves_storeAcc r m t) (by simp [storeAcc])))

theorem noMasks_byteOp (op : ByteOp) : NoMasks op.flags := by cases op <;> exact ⟨by decide, by decide⟩

theorem effect_modifyAcc {i : Instr} (op : ByteOp) (r : Acc) (t : State) : Effect i t (modifyAcc op.meaning r t) :=
  .ordinary (touches_modifyAcc op.meaning op.flags (touches_meaning op) r t) (onlyRegisters_acc r) (noMasks_byteOp op)
    (modifyAcc_wf op.meaning (fun m t => (meaning_keeps op m t).1) r t) (modifyAcc_records op r t).transfers

theorem effect_modifyMem {i : Instr} (op : ByteOp) (m : Mem) (t : State) : Effect i t (modifyMem op.meaning m t) :=
  have htouches := touches_modifyMem op.meaning op.flags (touches_meaning op) m t
  .ordinary htouches (onlyRegisters_mem m) (noMasks_byteOp op)
    (modifyMem_wf op.meaning (fun m t => (meaning_keeps op m t).1) m t)
    ((transfers_memEA m t).trans
      (.of_moves (moves_modifyMem op m t) (htouches.2.2.1.trans (touches_memEA m t).2.2.1.symm)))

theorem effect_testAcc {i : Instr} (r : Acc) (t : State) : Effect i t (testAcc r t) :=
  .ordinary (touches_testAcc r t) onlyRegisters_nil ⟨by decide, by decide⟩ (fun h => by simpa [Canonical, testAcc] using h)
    (SameRecords.transfers ⟨by simp [testAcc], by simp [testAcc], by simp [testAcc]⟩)

theorem effect_testMem {i : Instr} (m : Mem) (t : State) : Effect i t (testMem m t) :=
  .ordinary (touches_testMem m t) (onlyRegisters_mem m) ⟨by decide, by decide⟩ (testMem_wf m t)
    ((transfers_memEA m t).trans (.of_moves (moves_testMem m t) (by simp [testMem])))

theorem effect_addWide {i : Instr} (r : Wide) (o : Src16) (t : State) : Effect i t (addWide r o t) :=
  .ordinary (touches_addWide r o t) ((onlyRegisters_wide r).append (onlyRegisters_src16 o)) ⟨by decide, by decide⟩
    (addWide_wf r o t) ((transfers_operand16 o t).trans (addWide_records r o t).transfers)

theorem effect_subWide {i : Instr} (r : Wide) (o : Src16) (t : State) : Effect i t (subWide r o t) :=
  .ordinary (touches_subWide r o t) ((onlyRegisters_wide r).append (onlyRegisters_src16 o)) ⟨by decide, by decide⟩
    (subWide_wf r o t) ((transfers_operand16 o t).trans (subWide_records r o t).transfers)

theorem effect_cmpWide {i : Instr} (r : Wide) (o : Src16) (t : State) : Effect i t (cmpWide r o t) :=
  .ordinary (touches_cmpWide r o t) (onlyRegisters_src16 o) ⟨by decide, by decide⟩
    (cmpWide_wf r o t) ((transfers_operand16 o t).trans (cmpWide_records r o t).transfers)

theorem effect_loadWide {i : Instr} (r : Wide) (o : Src16) (t : State) : Effect i t (loadWide r o t) :=
  .ordinary (touches_loadWide r o t) ((onlyRegisters_wide r).append (onlyRegisters_src16 o)) ⟨by decide, by decide⟩
    (loadWide_wf r o t) ((transfers_operand16 o t).trans (loadWide_records r o t).transfers)

theorem effect_storeWide {i : Instr} (r : Wide) (m : Mem) (t : State) : Effect i t (storeWide r m t) :=
  .ordinary (touches_storeWide r m t) (onlyRegisters_mem m) ⟨by decide, by decide⟩ (storeWide_wf r m t)
    ((transfers_memEA m t).trans (.of_moves (moves_storeWide r m t) (by simp [storeWide])))

theorem effect_loadAddress {i : Instr} (p : Ptr) (j : Indexed) (t : State) : Effect i t (loadAddress p j t) :=
  .ordinary (touches_loadAddress p j t) ((onlyRegisters_ptr p).append (onlyRegisters_indexed j)) ⟨by decide, by decide⟩
    (loadAddress_wf p j t) ((transfers_indexedEA j t).trans (loadAddress_records p j t).transfers)

theorem effect_loadAddressZ {i : Instr} (p : Ptr) (j : Indexed) (t : State) : Effect i t (loadAddressZ p j t) :=
  .ordinary (touches_loadAddressZ p j t) ((onlyRegisters_ptr p).append (onlyRegisters_indexed j)) ⟨by decide, by decide⟩
    (loadAddressZ_wf p j t) ((transfers_indexedEA j t).trans (loadAddressZ_records p j t).transfers)

theorem effect_pushList {i : Instr} (p : Ptr) (hp : p = .s ∨ p = .u) (regs : Byte) (t : State) :
    Effect i t (pushList p regs t) := by
  refine .ordinary (touches_pushList p regs t hp) (onlyRegisters_ptr p) ⟨by decide, by decide⟩
    (pushList_wf p regs t hp) ?_
  rw [pushList_eq p regs t hp]
  exact transfers_pushImage p _ t

theorem effect_setPc {i : Instr} (v : Word) (t : State) : Effect i t (t.setPc v) :=
  .ordinary (touches_setPc t v) ⟨by decide, by decide, by decide⟩ ⟨by decide, by decide⟩ id
    ((Transfers.refl t).then rfl rfl rfl)

theorem effect_branchShort {i : Instr} (k : Cond) (off : Byte) (t : State) : Effect i t (branchShort k off t) := by
  rw [branchShort_eq]
  exact effect_setPc _ t

theorem effect_branchLong {i : Instr} (k : Cond) (off : Word) (t : State) : Effect i t (branchLong k off t) := by
  rw [branchLong_eq]
  exact effect_setPc _ t

theorem transfers_callTo (target : Word) (t : State) : Transfers t (callTo target t) := by
  rw [callTo_eq]
  exact (transfers_pushImage .s _ t).then rfl rfl rfl

theorem effect_callTo {i : Instr} (target : Word) (t : State) : Effect i t (callTo target t) :=
  .ordinary (touches_callTo target t) ⟨by decide, by decide, by decide⟩ ⟨by decide, by decide⟩ (callTo_wf target t)
    (transfers_callTo target t)

/-! ## The instructions that write more -/

theorem Effect.setNmiArmed {i : Instr} {t u : State} {v : Bool} (h : Effect i t u) (hv : u.nmiArmed = true → v = true) :
    Effect i t (u.setNmiArmed v) where
  canonical := h.canonical
  transfers := h.transfers.then rfl rfl rfl
  dp := h.dp
  masks := h.masks
  armed harmed := hv (h.armed harmed)
  run := h.run

/-- An entry sets masks and clears none. -/
theorem effect_takeException {i : Instr} (setI setF : Bool) (v : Word) (t : State) :
    Effect i t (takeException .entire setI setF v t) := by
  obtain ⟨-, -, -, hi, hf, htouches⟩ := entersEntire_takeException setI setF v t
  exact {
    canonical := takeException_entire_wf setI setF v t
    transfers := transfers_takeException_entire setI setF v t
    dp := .inl (htouches.dp (by decide))
    masks := .inl fun k hk hset => by
      rcases hk with rfl | rfl
      · rw [hi, hset, Bool.true_or]
      · rw [hf, hset, Bool.true_or]
    armed := fun harmed => by rw [htouches.nmiArmed (by decide), harmed]
    run := .inl (htouches.run (by decide)) }

theorem transfers_cwai (c : Byte) (image : List Byte) (t : State) :
    Transfers t ((pushImage .s image ((t.setCc c).setFlag .e true)).setRun .cwaiWaiting) := by
  have hpush := transfers_pushImage .s image ((t.setCc c).setFlag .e true)
  exact (((Transfers.refl t).then rfl rfl rfl).trans hpush).then rfl rfl rfl

theorem cwai_wf (c : Byte) (image : List Byte) (t : State) (h : Canonical t) :
    Canonical ((pushImage .s image ((t.setCc c).setFlag .e true)).setRun .cwaiWaiting) :=
  pushImage_wf .s image ((t.setCc c).setFlag .e true) h

theorem effect_cwai (v : Byte) (t : State) :
    Effect (.cwai v) t ((pushFrame .entire (t.setCc (t.cc &&& v))).setRun .cwaiWaiting) := by
  obtain ⟨t', hexec, -, hrun, -, htouches⟩ := cwaiResult v t
  obtain rfl := Host.Outcome.next.inj (show Host.Outcome.next _ = _ from hexec)
  rw [pushFrame_entire_eq] at hrun htouches ⊢
  exact {
    canonical := cwai_wf _ _ t
    transfers := transfers_cwai _ _ t
    dp := .inl (htouches.dp (by decide))
    masks := .inr (.inl ⟨v, .inr rfl⟩)
    armed := fun harmed => by rw [htouches.nmiArmed (by decide), harmed]
    run := .inr (.inr ⟨⟨v, rfl⟩, hrun⟩) }

theorem effect_rti (t : State) : Effect .rti t (returnFromException t) where
  canonical := returnFromException_wf t
  transfers := transfers_returnFromException t
  dp := .inr (.inr (.inr (.inr rfl)))
  masks := .inr (.inr (.inr (.inr rfl)))
  armed harmed := by rw [(touches_returnFromException t).nmiArmed (by decide), harmed]
  run := .inl ((touches_returnFromException t).run (by decide))

theorem effect_rts (t : State) : Effect .rts t (pullWordTo .s State.setPc t) :=
  .ordinary (touches_pullWordTo .s State.setPc [.pc] t touches_setPc) ⟨by decide, by decide, by decide⟩
    ⟨by decide, by decide⟩ (fun h => pullWordTo_wf .s State.setPc t h fun _ _ => rfl)
    (transfers_pullWordTo (put := State.setPc) (fun _ _ => ⟨rfl, rfl, rfl⟩) t)

theorem dp_not_mem_listLocs {p : Ptr} {regs : Byte} (h : regs.getLsbD 3 = false) : Loc.dp ∉ listLocs p regs := by
  unfold listLocs
  rw [h]
  cases p <;> simp [ptrLoc, otherStack]

theorem run_not_mem_listLocs (p : Ptr) (regs : Byte) : Loc.run ∉ listLocs p regs := by
  cases p <;> simp [listLocs, ptrLoc, otherStack]

/-- The parts of a pull's effect that follow from what it touches. -/
theorem effect_pull {i : Instr} {p : Ptr} {regs : Byte} {more : List Loc} {t t' : State}
    (hi : i = .puls regs ∨ i = .pulu regs) (hmore : Loc.dp ∉ more ∧ Loc.run ∉ more)
    (h : Touches (ptrLoc p :: more ++ listLocs p regs) (if regs.getLsbD 0 then allFlags else []) [] t t')
    (harmed : t.nmiArmed = true → t'.nmiArmed = true) (hc : Canonical t → Canonical t') (hm : Transfers t t') :
    Effect i t t' where
  canonical := hc
  transfers := hm
  dp := by
    cases hbit : regs.getLsbD 3
    · exact .inl (h.dp (by cases p <;> simp [hmore.1, dp_not_mem_listLocs hbit, ptrLoc]))
    · exact .inr (.inr (.inr (.inl ⟨regs, hbit, hi⟩)))
  masks := by
    cases hbit : regs.getLsbD 0
    · exact .inl fun k _ hset => by
        rw [h.2.1 k (by rw [hbit]; exact List.not_mem_nil), hset]
    · exact .inr (.inr (.inr (.inl ⟨regs, hbit, hi⟩)))
  armed := harmed
  run := .inl (h.run (by cases p <;> simp [hmore.2, run_not_mem_listLocs, ptrLoc]))

theorem effect_puls (regs : Byte) (t : State) : Effect (.puls regs) t (pullPc .s regs (pullListed .s regs t)) := by
  refine effect_pull (p := .s) (more := []) (.inl rfl) ⟨List.not_mem_nil, List.not_mem_nil⟩ (touches_pullS regs t)
    (fun harmed => ?_) (fun h => pullPc_wf _ _ _ (pullListed_wf _ _ _ h)) ?_
  · rw [(touches_pullS regs t).nmiArmed (by simp [ptrLoc, nmiArmed_not_mem_listLocs]), harmed]
  · rw [pull_s_eq]
    exact transfers_pullSlots (transfers_listSlots .s (f := id) fun _ => ⟨rfl, rfl, rfl⟩) regs t

theorem pulu_armed {regs : Byte} {t : State} (h : t.nmiArmed = true) :
    (pullPc .u regs (whenListed regs 6 (armNmiIf .puluS) (pullListed .u regs t))).nmiArmed = true := by
  obtain ⟨t', hexec, -, -, harmed, -⟩ := pullListResult regs t (.u, .pulu regs) (List.mem_cons_of_mem _ List.mem_cons_self)
  obtain rfl := Host.Outcome.next.inj (show Host.Outcome.next _ = _ from hexec)
  exact harmed h

theorem effect_pulu (regs : Byte) (t : State) :
    Effect (.pulu regs) t (pullPc .u regs (whenListed regs 6 (armNmiIf .puluS) (pullListed .u regs t))) := by
  have hwf : Canonical t → Canonical (pullPc .u regs (whenListed regs 6 (armNmiIf .puluS) (pullListed .u regs t))) :=
    fun h => pullPc_wf _ _ _ (whenListed_wf regs 6 (armNmiIf .puluS) _ (pullListed_wf _ _ _ h) fun _ hc => hc)
  have htransfers : Transfers t (pullPc .u regs (whenListed regs 6 (armNmiIf .puluS) (pullListed .u regs t))) := by
    rw [pull_u_eq]
    exact transfers_pullSlots (transfers_listSlots .u (f := armNmiIf .puluS) fun _ => ⟨rfl, rfl, rfl⟩) regs t
  exact effect_pull (p := .u) (more := if regs.getLsbD 6 then [Loc.nmiArmed] else []) (.inr rfl)
    (by split <;> exact ⟨by decide, by decide⟩) (touches_pullU regs t) pulu_armed hwf htransfers

theorem writeReg_wf (r : Reg) (v : Word) (t : State) (h : Canonical t) : Canonical (writeReg r v t) := by
  cases r <;> exact h

theorem writeReg_dp {r : Reg} (hr : r ≠ .dp) (v : Word) (t : State) : (writeReg r v t).dp = t.dp := by
  cases r with
  | dp => exact absurd rfl hr
  | _ => rfl

theorem writeReg_flag {r : Reg} (hr : r ≠ .cc) (v : Word) (t : State) (k : Flag) :
    (writeReg r v t).flag k = t.flag k := by
  cases r with
  | cc => exact absurd rfl hr
  | _ => rfl

theorem writeReg_run (r : Reg) (v : Word) (t : State) : (writeReg r v t).run = t.run := by
  cases r <;> rfl

theorem effect_tfr (p q : Reg) (v : Word) (t : State) : Effect (.tfr p q) t (writeReg q v t) where
  canonical := writeReg_wf q v t
  transfers := (writeReg_records q v t).transfers
  dp := by
    by_cases hq : q = .dp
    · exact .inr (.inl ⟨p, by rw [hq]⟩)
    · exact .inl (writeReg_dp hq v t)
  masks := by
    by_cases hq : q = .cc
    · exact .inr (.inr (.inl ⟨p, .inl (by rw [hq])⟩))
    · exact .inl fun k _ hset => by rw [writeReg_flag hq, hset]
  armed harmed := by rw [writeReg_nmiArmed, harmed, Bool.true_or]
  run := .inl (writeReg_run q v t)

theorem effect_exg (p q : Reg) (v w : Word) (t : State) : Effect (.exg p q) t (writeReg q v (writeReg p w t)) where
  canonical h := writeReg_wf q v _ (writeReg_wf p w t h)
  transfers := (writeReg_records p w t).transfers.trans (writeReg_records q v _).transfers
  dp := by
    by_cases hq : q = .dp
    · exact .inr (.inr (.inl ⟨p, .inl (by rw [hq])⟩))
    by_cases hp : p = .dp
    · exact .inr (.inr (.inl ⟨q, .inr (by rw [hp])⟩))
    · exact .inl ((writeReg_dp hq v _).trans (writeReg_dp hp w t))
  masks := by
    by_cases hq : q = .cc
    · exact .inr (.inr (.inl ⟨p, .inr (.inl (by rw [hq]))⟩))
    by_cases hp : p = .cc
    · exact .inr (.inr (.inl ⟨q, .inr (.inr (by rw [hp]))⟩))
    · exact .inl fun k _ hset => by rw [writeReg_flag hq, writeReg_flag hp, hset]
  armed harmed := by rw [writeReg_nmiArmed, writeReg_nmiArmed, harmed, Bool.true_or, Bool.true_or]
  run := .inl ((writeReg_run q v _).trans (writeReg_run p w t))

end Sys2Proof.Machine
end

section
/-! PROOFS. The effect of every instruction by one case split, and the statements about all of them. -/

namespace Sys2Proof.Machine

theorem effect_simple {i : Instr} {locs : List Loc} {flags : List Flag} {t t' : State} (h : Touches locs flags [] t t')
    (hl : OnlyRegisters locs) (hf : NoMasks flags) (hm : t'.mem = t.mem) (hr : SameRecords t t') : Effect i t t' :=
  .ordinary h hl hf (fun hc => by rw [Canonical, hm]; exact hc) hr.transfers

theorem effect_decimalAdjust {i : Instr} (t : State) : Effect i t (decimalAdjust t) :=
  effect_simple (touches_decimalAdjust t) ⟨by decide, by decide, by decide⟩ ⟨by decide, by decide⟩
    (by simp [decimalAdjust]) ⟨by simp [decimalAdjust], by simp [decimalAdjust], by simp [decimalAdjust]⟩

theorem effect_multiply {i : Instr} (t : State) : Effect i t (multiply t) :=
  effect_simple (touches_multiply t) ⟨by decide, by decide, by decide⟩ ⟨by decide, by decide⟩ rfl ⟨rfl, rfl, rfl⟩

theorem effect_addBToX {i : Instr} (t : State) : Effect i t (addBToX t) :=
  effect_simple (touches_setX t _) ⟨by decide, by decide, by decide⟩ ⟨by decide, by decide⟩ rfl ⟨rfl, rfl, rfl⟩

theorem effect_signExtendB {i : Instr} (t : State) : Effect i t (signExtendB t) :=
  effect_simple ((touches_setA t _).trans (touches_setNZ _ _)) ⟨by decide, by decide, by decide⟩ ⟨by decide, by decide⟩
    (by simp [signExtendB]) ⟨by simp [signExtendB], by simp [signExtendB], by simp [signExtendB]⟩

theorem effect_andcc (v : Byte) (t : State) : Effect (.andcc v) t (t.setCc (t.cc &&& v)) where
  canonical := id
  transfers := (Transfers.refl t).then rfl rfl rfl
  dp := .inl rfl
  masks := .inr (.inl ⟨v, .inl rfl⟩)
  armed := id
  run := .inl rfl

theorem effect_orcc (v : Byte) (t : State) : Effect (.orcc v) t (t.setCc (t.cc ||| v)) where
  canonical := id
  transfers := (Transfers.refl t).then rfl rfl rfl
  dp := .inl rfl
  masks := .inl fun k _ hset => by
    have hk : t.cc.getLsbD k.bit = true := hset
    rw [State.flag, State.setCc_cc, BitVec.getLsbD_or, hk, Bool.true_or]
  armed := id
  run := .inl rfl

theorem effect_sync (t : State) : Effect .sync t (t.setRun .syncing) where
  canonical := id
  transfers := (Transfers.refl t).then rfl rfl rfl
  dp := .inl rfl
  masks := .inl fun _ _ hset => hset
  armed := id
  run := .inr (.inl ⟨rfl, rfl⟩)

theorem effect_jmp {i : Instr} (m : Mem) (t : State) : Effect i t ((memEA m t).2.setPc (memEA m t).1) :=
  .ordinary ((touches_memEA m t).trans (touches_setPc _ _))
    ((onlyRegisters_mem m).append ⟨by decide, by decide, by decide⟩) ⟨by decide, by decide⟩ (memEA_wf m t)
    ((transfers_memEA m t).then rfl rfl rfl)

theorem effect_jsr {i : Instr} (m : Mem) (t : State) : Effect i t (callTo (memEA m t).1 (memEA m t).2) :=
  .ordinary ((touches_memEA m t).trans (touches_callTo _ _))
    ((onlyRegisters_mem m).append ⟨by decide, by decide, by decide⟩) ⟨by decide, by decide⟩
    (fun h => callTo_wf _ _ (memEA_wf m t h)) ((transfers_memEA m t).trans (transfers_callTo _ _))

theorem Effect.of_next {i : Instr} {t u t' : State} (e : Effect i t u) (h : (Host.Outcome.next u : Result) = .next t') :
    Effect i t t' := by
  rw [← Host.Outcome.next.inj h]
  exact e

/-- The effect of every instruction that completes. -/
theorem exec_effect {i : Instr} {t t' : State} (h : exec i t = .next t') : Effect i t t' := by
  cases i with
  | adca o | adcb o | adda o | addb o => exact (effect_addAcc _ _ o t).of_next h
  | sbca o | sbcb o | suba o | subb o => exact (effect_subAcc _ _ o t).of_next h
  | cmpa o | cmpb o => exact (effect_cmpAcc _ o t).of_next h
  | anda o | andb o | eora o | eorb o | ora o | orb o => exact (effect_logicAcc _ _ o t).of_next h
  | bita o | bitb o => exact (effect_bitAcc _ o t).of_next h
  | lda o | ldb o => exact (effect_loadAcc _ o t).of_next h
  | sta m | stb m => exact (effect_storeAcc _ m t).of_next h
  | asla | lsla => exact (effect_modifyAcc .asl .a t).of_next h
  | aslb | lslb => exact (effect_modifyAcc .asl .b t).of_next h
  | asra => exact (effect_modifyAcc .asr .a t).of_next h
  | asrb => exact (effect_modifyAcc .asr .b t).of_next h
  | clra => exact (effect_modifyAcc .clr .a t).of_next h
  | clrb => exact (effect_modifyAcc .clr .b t).of_next h
  | coma => exact (effect_modifyAcc .com .a t).of_next h
  | comb => exact (effect_modifyAcc .com .b t).of_next h
  | deca => exact (effect_modifyAcc .dec .a t).of_next h
  | decb => exact (effect_modifyAcc .dec .b t).of_next h
  | inca => exact (effect_modifyAcc .inc .a t).of_next h
  | incb => exact (effect_modifyAcc .inc .b t).of_next h
  | lsra => exact (effect_modifyAcc .lsr .a t).of_next h
  | lsrb => exact (effect_modifyAcc .lsr .b t).of_next h
  | nega => exact (effect_modifyAcc .neg .a t).of_next h
  | negb => exact (effect_modifyAcc .neg .b t).of_next h
  | rola => exact (effect_modifyAcc .rol .a t).of_next h
  | rolb => exact (effect_modifyAcc .rol .b t).of_next h
  | rora => exact (effect_modifyAcc .ror .a t).of_next h
  | rorb => exact (effect_modifyAcc .ror .b t).of_next h
  | asl m | lsl m => exact (effect_modifyMem .asl m t).of_next h
  | asr m => exact (effect_modifyMem .asr m t).of_next h
  | clr m => exact (effect_modifyMem .clr m t).of_next h
  | com m => exact (effect_modifyMem .com m t).of_next h
  | dec m => exact (effect_modifyMem .dec m t).of_next h
  | inc m => exact (effect_modifyMem .inc m t).of_next h
  | lsr m => exact (effect_modifyMem .lsr m t).of_next h
  | neg m => exact (effect_modifyMem .neg m t).of_next h
  | rol m => exact (effect_modifyMem .rol m t).of_next h
  | ror m => exact (effect_modifyMem .ror m t).of_next h
  | tsta | tstb => exact (effect_testAcc _ t).of_next h
  | tst m => exact (effect_testMem m t).of_next h
  | daa => exact (effect_decimalAdjust t).of_next h
  | mul => exact (effect_multiply t).of_next h
  | addd o => exact (effect_addWide _ o t).of_next h
  | subd o => exact (effect_subWide _ o t).of_next h
  | cmpd o | cmpx o | cmpy o | cmpu o | cmps o => exact (effect_cmpWide _ o t).of_next h
  | ldd o | ldx o | ldy o | ldu o => exact (effect_loadWide _ o t).of_next h
  | lds o => exact ((effect_loadWide _ o t).setNmiArmed fun _ => rfl).of_next h
  | std m | stx m | sty m | stu m | sts m => exact (effect_storeWide _ m t).of_next h
  | leax j | leay j => exact (effect_loadAddressZ _ j t).of_next h
  | leau j => exact (effect_loadAddress _ j t).of_next h
  | leas j => exact ((effect_loadAddress _ j t).setNmiArmed fun harmed => by rw [harmed, Bool.true_or]).of_next h
  | abx => exact (effect_addBToX t).of_next h
  | sex => exact (effect_signExtendB t).of_next h
  | pshs regs => exact (effect_pushList .s (.inl rfl) regs t).of_next h
  | pshu regs => exact (effect_pushList .u (.inr rfl) regs t).of_next h
  | puls regs => exact (effect_puls regs t).of_next h
  | pulu regs => exact (effect_pulu regs t).of_next h
  | tfr p q =>
    by_cases hsize : p.sameSize q = true
    · cases (execTfr_of_sameSize p q t hsize).symm.trans h
      exact effect_tfr p q _ t
    · cases (if_neg hsize : execTfr p q t = _).symm.trans h
  | exg p q =>
    by_cases hsize : p.sameSize q = true
    · cases (execExg_of_sameSize p q t hsize).symm.trans h
      exact effect_exg p q _ _ t
    · cases (if_neg hsize : execExg p q t = _).symm.trans h
  | bra off | brn off | bhi off | bls off | bcc off | bhs off | bcs off | blo off | bne off | beq off | bvc off | bvs off
  | bpl off | bmi off | bge off | blt off | bgt off | ble off => exact (effect_branchShort _ off t).of_next h
  | lbra off | lbrn off | lbhi off | lbls off | lbcc off | lbhs off | lbcs off | lblo off | lbne off | lbeq off
  | lbvc off | lbvs off | lbpl off | lbmi off | lbge off | lblt off | lbgt off | lble off =>
    exact (effect_branchLong _ off t).of_next h
  | bsr off | lbsr off => exact (effect_callTo _ t).of_next h
  | andcc v => exact (effect_andcc v t).of_next h
  | orcc v => exact (effect_orcc v t).of_next h
  | cwai v => exact (effect_cwai v t).of_next h
  | nop => exact (effect_simple (Touches.refl t) onlyRegisters_nil ⟨by decide, by decide⟩ rfl ⟨rfl, rfl, rfl⟩).of_next h
  | jmp m => exact (effect_jmp m t).of_next h
  | jsr m => exact (effect_jsr m t).of_next h
  | rti => exact (effect_rti t).of_next h
  | rts => exact (effect_rts t).of_next h
  | swi | swi2 | swi3 => exact (effect_takeException _ _ _ t).of_next h
  | sync => exact (effect_sync t).of_next h

/-! ## The promises about all instructions -/

/-- Settles O56: DP as the effect of the instruction says. -/
theorem onlyNamedInstructionsWriteDp : Obligations.only_named_instructions_write_dp := by
  unfold Obligations.only_named_instructions_write_dp
  intro i t t' h hne
  exact (exec_effect h).dp.resolve_left hne

/-- Settles O57: a mask that was set is set, or CC was written wholesale. -/
theorem onlyWholesaleWritersClearMasks : Obligations.only_wholesale_writers_clear_masks := by
  unfold Obligations.only_wholesale_writers_clear_masks
  intro i t t' k hk h hset hclear
  refine (exec_effect h).masks.resolve_left fun hkept => ?_
  rw [hkept k hk hset] at hclear
  exact Bool.noConfusion hclear

/-! ## The fetch -/

theorem touches_fetchByte (t : State) : Touches [.pc] [] [] t (fetchByte t).2 :=
  (touches_readByte _ t).trans (touches_setPc _ _)

/-- A fetch moves PC and nothing else, and keeps canonical memory. -/
theorem fetchFrom_keeps (fuel : Nat) (bytes : List Byte) (t u : State) (i : Instr)
    (h : fetchFrom fuel bytes t = .ok (i, u)) : Touches [.pc] [] [] t u ∧ (Canonical t → Canonical u) := by
  induction fuel generalizing bytes t with
  | zero => cases h
  | succ fuel ih =>
    have hwf : Canonical t → Canonical (fetchByte t).2 := readByte_wf t.pc t
    simp only [fetchFrom] at h
    split at h
    · obtain ⟨hrest, hrest'⟩ := ih _ _ h
      exact ⟨(touches_fetchByte t).andThen hrest, fun hc => hrest' (hwf hc)⟩
    · cases h
      exact ⟨touches_fetchByte t, hwf⟩
    · cases h

/-- An execution is a fetch and the effect of an instruction. -/
theorem executeNext_effect {t t' : State} (h : executeNext t = .next t') :
    ∃ i u, Touches [.pc] [] [] t u ∧ (Canonical t → Canonical u) ∧ Effect i u t' := by
  unfold executeNext at h
  split at h
  · rename_i i u hfetch
    obtain ⟨htouches, hwf⟩ := fetchFrom_keeps _ _ _ _ _ hfetch
    exact ⟨i, u, htouches, hwf, exec_effect h⟩
  · cases h

/-! ## What a step can be -/

/-- The six things that a step can be (00_scope.md R11). -/
inductive Stepped (p : Pins) (t : State) : State → Prop
  | resets (h : p.reset = true) : Stepped p t (resetSequence t)
  | halts : Stepped p t (haltBoundary t)
  | waits : Stepped p t t
  | enters (q : Request) (h : t.run ≠ .cwaiWaiting) : Stepped p t (enterInterrupt q (t.setRun .running))
  | wakes (q : Request) : Stepped p t (enterFromCwai q t)
  | executes {t' : State} (h : t.run ≠ .cwaiWaiting) (he : executeNext (t.setRun .running) = .next t') : Stepped p t t'

theorem stepped_of_runBoundary {p : Pins} {t t' : State} (hrun : t.run ≠ .cwaiWaiting)
    (h : runBoundary p (t.setRun .running) = .next t') : Stepped p t t' := by
  unfold runBoundary at h
  split at h
  · cases h
    exact .enters _ hrun
  · exact .executes hrun h

theorem setRun_self {t : State} {r : RunState} (h : t.run = r) : t.setRun r = t := by
  rw [← h]
  rfl

theorem stepWithPins_stepped {p : Pins} {t t' : State} (h : stepWithPins p t = .next t') : Stepped p t t' := by
  unfold stepWithPins at h
  split at h
  · rename_i hreset
    cases h
    exact .resets hreset
  split at h
  · cases h
    exact .halts
  split at h
  case h_1 hrun =>
    rw [← setRun_self hrun] at h
    exact stepped_of_runBoundary (by simp [hrun]) h
  case h_2 hrun => exact stepped_of_runBoundary (by simp [hrun]) h
  case h_3 hrun =>
    have hne : t.run ≠ .cwaiWaiting := by simp [hrun]
    unfold syncBoundary at h
    split at h
    · split at h
      · exact .executes hne h
      · exact stepped_of_runBoundary hne h
    · cases h
      exact .waits
  case h_4 hrun =>
    unfold cwaiBoundary at h
    split at h
    · cases h
      exact .wakes _
    · cases h
      exact .waits

theorem touches_enterInterrupt (q : Request) (t : State) :
    Touches [.nmiPending, .s, .pc] [.e, .i, .f] (below t.s 12) t (enterInterrupt q t) := by
  cases q with
  | nmi =>
    exact ((touches_setNmiPending t false).trans (touches_takeException_entire true true vectorNmi _)).mono
      (by simp) (by simp) (fun _ m => m)
  | firq =>
    exact (touches_takeException_subset true true vectorFirq t).mono (by simp) (fun _ m => m)
      (fun _ m => below_mono (by decide) m)
  | irq => exact (touches_takeException_entire true false vectorIrq t).mono (by simp) (fun _ m => m) (fun _ m => m)

theorem touches_enterFromCwai (q : Request) (t : State) :
    Touches [.nmiPending, .run, .pc] [.i, .f] [] t (enterFromCwai q t) := by
  cases q with
  | nmi =>
    exact (((touches_setNmiPending t false).trans (touches_setRun _ .running)).trans
      (touches_takeException_stacked true true vectorNmi _)).mono (by simp) (by simp) (fun _ m => m)
  | firq =>
    exact ((touches_setRun t .running).trans (touches_takeException_stacked true true vectorFirq _)).mono
      (by simp) (by simp) (fun _ m => m)
  | irq =>
    exact ((touches_setRun t .running).trans (touches_takeException_stacked true false vectorIrq _)).mono
      (by simp) (by simp) (fun _ m => m)

theorem touches_haltBoundary (t : State) : Touches [.run] [] [] t (haltBoundary t) := by
  unfold haltBoundary
  split
  · exact touches_setRun t .halted
  all_goals exact (Touches.refl t).mono (by simp) (by simp) (by simp)

theorem haltBoundary_wf (t : State) (h : Canonical t) : Canonical (haltBoundary t) := by
  unfold haltBoundary
  split <;> exact h

/-- Every step keeps canonical memory and the platform. -/
theorem Stepped.keeps {p : Pins} {t t' : State} (h : Stepped p t t') :
    (Canonical t → Canonical t') ∧ t'.platform = t.platform := by
  cases h with
  | resets => exact ⟨resetSequence_wf t, (touches_resetSequence t).2.2.1⟩
  | halts => exact ⟨haltBoundary_wf t, (touches_haltBoundary t).2.2.1⟩
  | waits => exact ⟨id, rfl⟩
  | enters q => exact ⟨enterInterrupt_wf q (t.setRun .running), (touches_enterInterrupt q (t.setRun .running)).2.2.1⟩
  | wakes q => exact ⟨enterFromCwai_wf q t, (touches_enterFromCwai q t).2.2.1⟩
  | executes _ he =>
    obtain ⟨i, u, ⟨-, -, hplatform, -⟩, hwf, heffect⟩ := executeNext_effect he
    exact ⟨fun hc => heffect.canonical (hwf hc), heffect.transfers.2.trans hplatform⟩

theorem openBoundary_keeps (t : State) :
    (Canonical t → Canonical (openBoundary t).2) ∧ (openBoundary t).2.platform = t.platform := by
  rw [openBoundary_eq]
  exact ⟨agentTurn_wf (t.setBus []), agentTurn_platform (t.setBus [])⟩

/-- A step from the boundary that it opens. -/
theorem step_keeps {t t' : State} (h : step t = .next t') : (Canonical t → Canonical t') ∧ t'.platform = t.platform := by
  obtain ⟨hwf, hplatform⟩ := openBoundary_keeps t
  obtain ⟨hwf', hplatform'⟩ := (stepWithPins_stepped (p := (openBoundary t).1) h).keeps
  exact ⟨fun hc => hwf' (hwf hc), hplatform'.trans hplatform⟩

/-- Settles O3: what opens the boundary and each thing a step can be keep the form. -/
theorem stepKeepsMemoryCanonical : Obligations.step_keeps_memory_canonical := by
  unfold Obligations.step_keeps_memory_canonical
  intro t t' hc h
  exact (step_keeps h).1 hc

/-- Settles O59: the platform by the step, the run state by the effect of the instruction. -/
theorem platformAndRunStateKept : Obligations.platform_and_run_state_kept := by
  unfold Obligations.platform_and_run_state_kept
  refine ⟨fun t t' h => (step_keeps h).2, fun i t t' h hne => ?_⟩
  rcases (exec_effect h).run with hsame | ⟨hsync, -⟩ | ⟨hcwai, -⟩
  · exact absurd hsame hne
  · exact .inl hsync
  · exact .inr hcwai

/-! ## The NMI latch -/

/-- A step without RESET keeps an armed NMI; where it arms NMI it has executed an instruction. -/
theorem Stepped.armed {p : Pins} {t t' : State} (h : Stepped p t t') (hreset : p.reset = false) :
    (t.nmiArmed = true → t'.nmiArmed = true) ∧
      (t'.nmiArmed = t.nmiArmed ∨ t'.run ≠ .halted ∧ t.run ≠ .cwaiWaiting) := by
  have same : t'.nmiArmed = t.nmiArmed → (t.nmiArmed = true → t'.nmiArmed = true) ∧
      (t'.nmiArmed = t.nmiArmed ∨ t'.run ≠ .halted ∧ t.run ≠ .cwaiWaiting) := fun e => ⟨e.trans, .inl e⟩
  cases h with
  | resets hr => exact absurd (hr.symm.trans hreset) Bool.noConfusion
  | halts => exact same ((touches_haltBoundary t).nmiArmed (by decide))
  | waits => exact same rfl
  | enters q => exact same ((touches_enterInterrupt q (t.setRun .running)).nmiArmed (by decide))
  | wakes q => exact same ((touches_enterFromCwai q t).nmiArmed (by decide))
  | executes hrun he =>
    obtain ⟨i, u, htouches, -, heffect⟩ := executeNext_effect he
    have hu : u.nmiArmed = t.nmiArmed := htouches.nmiArmed (by decide)
    have hurun : u.run = .running := htouches.run (by decide)
    refine ⟨fun harmed => heffect.armed (hu.trans harmed), .inr ⟨?_, hrun⟩⟩
    rcases heffect.run with h | ⟨-, h⟩ | ⟨-, h⟩
    · rw [h, hurun]; decide
    · rw [h]; decide
    · rw [h]; decide

/-- Settles O58: by the things a step can be. -/
theorem nmiStaysArmedUntilReset : Obligations.nmi_stays_armed_until_reset := by
  unfold Obligations.nmi_stays_armed_until_reset
  intro p t t' h hreset
  obtain ⟨hkept, hcase⟩ := (stepWithPins_stepped h).armed hreset
  refine ⟨hkept, fun hnot harmed => hcase.resolve_left fun hsame => ?_⟩
  rw [hsame, hnot] at harmed
  exact Bool.noConfusion harmed

end Sys2Proof.Machine
end

section
/-! PROOFS. The transfers of the listed accesses (20_memory.md R66, R68, R69; 60_exceptions.md R414, R431). -/

namespace Sys2Proof.Machine

theorem byteReaders_move (m : Mem) (t : State) : ∀ i ∈ byteReaders m,
    Completes (exec i t) (Moves [.read (memEA m t).1 (readByte (memEA m t).1 (memEA m t).2).1] (memEA m t).2) := by
  have hread := moves_operand8_of_mem m t
  have add := fun r c => (addAcc_records r c (memAsSrc8 m) t).moves hread
  have sub := fun r c => (subAcc_records r c (memAsSrc8 m) t).moves hread
  have cmp := fun r => (cmpAcc_records r (memAsSrc8 m) t).moves hread
  have logic := fun r op => (logicAcc_records r op (memAsSrc8 m) t).moves hread
  have bit := fun r => (bitAcc_records r (memAsSrc8 m) t).moves hread
  have load := fun r => (loadAcc_records r (memAsSrc8 m) t).moves hread
  unfold byteReaders
  simp only [List.forall_mem_cons]
  exact ⟨⟨_, rfl, add .a true⟩, ⟨_, rfl, add .b true⟩, ⟨_, rfl, add .a false⟩, ⟨_, rfl, add .b false⟩,
    ⟨_, rfl, logic .a _⟩, ⟨_, rfl, logic .b _⟩, ⟨_, rfl, bit .a⟩, ⟨_, rfl, bit .b⟩, ⟨_, rfl, cmp .a⟩, ⟨_, rfl, cmp .b⟩,
    ⟨_, rfl, logic .a _⟩, ⟨_, rfl, logic .b _⟩, ⟨_, rfl, load .a⟩, ⟨_, rfl, load .b⟩, ⟨_, rfl, logic .a _⟩,
    ⟨_, rfl, logic .b _⟩, ⟨_, rfl, sub .a true⟩, ⟨_, rfl, sub .b true⟩, ⟨_, rfl, sub .a false⟩, ⟨_, rfl, sub .b false⟩,
    ⟨_, rfl, moves_testMem m t⟩, List.forall_mem_nil _⟩

theorem wordReaders_move (m : Mem) (t : State) : ∀ i ∈ wordReaders m,
    Completes (exec i t) (Moves (wordReads (memEA m t).1 (readWord (memEA m t).1 (memEA m t).2).1) (memEA m t).2) := by
  have hread := moves_operand16_of_mem m t
  have load := fun r => (loadWide_records r (memAsSrc16 m) t).moves hread
  have cmp := fun r => (cmpWide_records r (memAsSrc16 m) t).moves hread
  unfold wordReaders
  simp only [List.forall_mem_cons]
  exact ⟨⟨_, rfl, (addWide_records .d (memAsSrc16 m) t).moves hread⟩,
    ⟨_, rfl, (subWide_records .d (memAsSrc16 m) t).moves hread⟩, ⟨_, rfl, cmp .d⟩, ⟨_, rfl, cmp (.ptr .x)⟩,
    ⟨_, rfl, cmp (.ptr .y)⟩, ⟨_, rfl, cmp (.ptr .u)⟩, ⟨_, rfl, cmp (.ptr .s)⟩, ⟨_, rfl, load .d⟩,
    ⟨_, rfl, load (.ptr .x)⟩, ⟨_, rfl, load (.ptr .y)⟩, ⟨_, rfl, load (.ptr .u)⟩,
    ⟨_, rfl, (load (.ptr .s)).andKeeps rfl rfl⟩, List.forall_mem_nil _⟩

theorem wordStores_move (m : Mem) (t : State) : ∀ ri ∈ wordStores m,
    Completes (exec ri.2 t) (Moves (wordWrites (memEA m t).1 ((memEA m t).2.wide ri.1)) (memEA m t).2) := by
  have store := fun r => moves_storeWide r m t
  unfold wordStores
  simp only [List.forall_mem_cons]
  exact ⟨⟨_, rfl, store .d⟩, ⟨_, rfl, store (.ptr .x)⟩, ⟨_, rfl, store (.ptr .y)⟩, ⟨_, rfl, store (.ptr .u)⟩,
    ⟨_, rfl, store (.ptr .s)⟩, List.forall_mem_nil _⟩

theorem memInstrs_move (op : ByteOp) (m : Mem) (t : State) : ∀ i ∈ op.memInstrs m,
    Completes (exec i t) (fun t' => ∃ r : Byte,
      r.toNat = op.value (readByte (memEA m t).1 (memEA m t).2).1 (t.flag .c) ∧
      Moves [.read (memEA m t).1 (readByte (memEA m t).1 (memEA m t).2).1, .write (memEA m t).1 r] (memEA m t).2 t') :=
  fun i hi => ⟨_, exec_memInstrs op m t i hi, _, (byteEffect_modifyMem op m t).1, moves_modifyMem op m t⟩

theorem loadAddress_moves (i : Indexed) (t : State) :
    ∀ j ∈ [Instr.leax i, .leay i, .leau i, .leas i], Completes (exec j t) (Moves [] (indexedEA i t).2) := by
  have lea := fun p => (loadAddress_records p i t).moves (Moves.refl _)
  have leaz := fun p => (loadAddressZ_records p i t).moves (Moves.refl _)
  simp only [List.forall_mem_cons]
  exact ⟨⟨_, rfl, leaz .x⟩, ⟨_, rfl, leaz .y⟩, ⟨_, rfl, lea .u⟩, ⟨_, rfl, (lea .s).andKeeps rfl rfl⟩,
    List.forall_mem_nil _⟩

/-- Settles O60: the transfers of the operand, and nothing after it on the records. -/
theorem accessesMoveTheirBytes : Obligations.accesses_move_their_bytes := by
  unfold Obligations.accesses_move_their_bytes
  refine ⟨fun i t t' h => (exec_effect h).transfers.1, fun m t => ?memory, fun i t => ?indexed,
    fun p v t => ⟨moves_push8 p v t, moves_pull8 p t⟩, moves_loadVector, fun _ _ => ⟨rfl, rfl, rfl, rfl⟩⟩
  case memory =>
    refine ⟨byteReaders_move m t, ?_, fun op => memInstrs_move op m t, wordReaders_move m t, wordStores_move m t,
      ⟨_, rfl, (Moves.refl _).andKeeps rfl rfl⟩⟩
    unfold byteStores
    simp only [List.forall_mem_cons]
    exact ⟨⟨_, rfl, moves_storeAcc .a m t⟩, ⟨_, rfl, moves_storeAcc .b m t⟩, List.forall_mem_nil _⟩
  case indexed =>
    have hmoves := moves_indexedEA i t
    refine ⟨fun hi => ?_, fun hi => ?_, loadAddress_moves i t⟩
    · rwa [if_pos hi] at hmoves
    · rwa [if_neg (by simp [hi])] at hmoves

end Sys2Proof.Machine
end
